-- ==== Sys2Proof/Word.lean ====
section
/-! DEFINITION. The word type of the engine: an 8-bit byte (00_scope.md R11, R7: the port register is byte-wide). -/

namespace Sys2Proof

/-- A byte: 8 bits, bit 7 the most significant (R11); frame bytes and port values are bytes (R7, `PORT_W = 8`). -/
abbrev Byte := BitVec 8

/-- The position of one bit of a byte, counted in the order of sending: `J` of 10_state.md R28, 0..7. -/
abbrev BitIndex := Fin 8

/-- The opaque identity of a port register: the type of `PORT_ID` and `PORT_C` (R7, R25). -/
abbrev PortId := Nat

end Sys2Proof
end

