-- ==== Sys2Proof/Config.lean ====
section
/-! DEFINITION. The build-time parameters of the engine (00_scope.md R6 to R10), the names of the build errors
(60_exceptions.md R232) and the reference values (95_test_vectors.md). Which parameters can be built is decided in
Machine/Timing.lean. -/

namespace Sys2Proof

/-- The realization of the bit encoder, selected when the hardware is built (R8). -/
inductive Strategy where
  | unrolled
  | byteLoop
  deriving DecidableEq, Repr

/-- The minimum of `T1` (R10: a named constant of this hardware, not a literal inside a step). -/
def minT1 : Nat := 3
/-- The minimum of `T2` (R10). -/
def minT2 : Nat := 2
/-- The minimum of `T3` (R10). -/
def minT3 : Nat := 6

/-- The parameters of the engine (R6, R7, R8, R9), before any check. -/
structure Params where
  /-- First phase length in cycles (R6). -/
  t1 : Nat
  /-- Second phase length in cycles (R6). -/
  t2 : Nat
  /-- Third phase length in cycles (R6). -/
  t3 : Nat
  /-- `PIN_BIT`, which bit of the port register is the pin (R7). -/
  pinBit : Nat
  /-- `PORT_ID`, the identity of the one port register (R7). -/
  portId : PortId
  /-- `STRATEGY` (R8). -/
  strategy : Strategy
  /-- `W`, write latency (R9). -/
  w : Nat
  /-- `B`, branch latency (R9). -/
  b : Nat
  /-- `ADJ_LAST`, loop control absorbed by the last bit of a byte (R9). -/
  adjLast : Nat
  /-- `ADJ_BIT`, loop work absorbed by bits 0..6 of a byte (R9). -/
  adjBit : Nat
  /-- `L_ENTER` (R9). -/
  lEnter : Nat
  /-- `L_SNAP` (R9). -/
  lSnap : Nat
  /-- `L_LOAD` (R9). -/
  lLoad : Nat
  /-- `L_LEAVE` (R9). -/
  lLeave : Nat
  /-- `L_DIR` (R9). -/
  lDir : Nat
  /-- `L_CACHE` (R9). -/
  lCache : Nat
  /-- `L_NOP` (R9). -/
  lNop : Nat
  /-- `ADDR_W`, width of a frame-memory address (R9). -/
  addrW : Nat
  /-- `COUNT_W`, width of the LED count operand (R9). -/
  countW : Nat
  deriving DecidableEq, Repr

/-- The build errors of 60_exceptions.md R232: each stops the hardware from existing, none occurs in a run. -/
inductive BuildError where
  | timingInfeasible
  | negativeDelay
  | clockOutOfRange
  | badParameter
  deriving DecidableEq, Repr

/-- Where the three phase lengths come from: cycles, or nanosecond targets and a clock frequency in MHz (R6, R121 d). -/
inductive TimingSource where
  | cycles (t1 t2 t3 : Nat)
  | nanoseconds (ns1 ns2 ns3 fMhz : Nat)
  deriving DecidableEq, Repr

/-- The reference parameters of 95_test_vectors.md with `STRATEGY = UNROLLED`. The source fixes none of these numbers;
`PIN_BIT = 4` is that of program P1 and `PORT_ID = 0` is the model's. DESIGN CHOICE, unsafe: log 2. -/
def Params.reference : Params :=
  { t1 := 8, t2 := 8, t3 := 6, pinBit := 4, portId := 0, strategy := .unrolled, w := 2, b := 1, adjLast := 4,
    adjBit := 0, lEnter := 1, lSnap := 3, lLoad := 2, lLeave := 1, lDir := 1, lCache := 1, lNop := 1, addrW := 16,
    countW := 14 }

/-- The reference parameters with `STRATEGY = BYTELOOP`, `ADJ_BIT = 1` (R9). DESIGN CHOICE, unsafe: log 2. -/
def Params.referenceByteLoop : Params := { Params.reference with strategy := .byteLoop, adjBit := 1 }

end Sys2Proof
end

