-- ==== Sys2Proof/Syntax.lean ====
section
/-! DEFINITION. The instructions: one constructor per row of spec/opcode_table.json, in the table's order
(30_encoding.md R102, R104); the micro-operations a sequencer can issue (R104, R106); and the lines of a host program
(R108). -/

namespace Sys2Proof

/-- An instruction of either level (R100): a host command or a sequencer micro-operation. -/
inductive Instr where
  /-- Command `INIT`; its `base` and `count` fields are ignored (R107, R211). -/
  | init
  /-- Command `SHOWRGB base, count` (R213). -/
  | showrgb (base count : Nat)
  /-- Command `SHOWARGB`; its `base` and `count` fields are ignored (R107, R215). -/
  | showargb
  /-- The reserved command, `op = 11` (R106); never accepted. -/
  | reservedCommand11
  /-- `NOP`, code 0 (R215). -/
  | nop
  /-- `DIROUT`, code 1 (R141). -/
  | dirout
  /-- `CACHE`, code 2 (R142). -/
  | cache
  /-- `AENTER`, code 3 (R191). -/
  | aenter
  /-- `ALEAVE`, code 4 (R192). -/
  | aleave
  /-- `SNAP`, code 5 (R143). -/
  | snap
  /-- `SETLO`, code 6 (R145). -/
  | setlo
  /-- `SETHI`, code 7 (R146). -/
  | sethi
  /-- `DELAY N`, code 8, operand a natural (R127). -/
  | delay (n : Nat)
  /-- `TESTB k`, code 9, operand 0..7 (R162). -/
  | testb (k : Nat)
  /-- `CDROP`, code 10 (R163). -/
  | cdrop
  /-- `SHIFT`, code 11 (R166). -/
  | shift
  /-- `FIRST`, code 12 (R168). -/
  | first
  /-- `NEXT`, code 13 (R167). -/
  | next
  /-- The reserved code 14 (R106); never issued, and no `MicroOp`. A row of the table only: log 13. -/
  | reservedUop14
  /-- The reserved code 15 (R106); never issued, and no `MicroOp`. A row of the table only: log 13. -/
  | reservedUop15
  deriving DecidableEq, Repr

/-- A micro-operation: what the sequencer issues. Fourteen constructors; the reserved codes 14 and 15 have none (R106,
R104). -/
inductive MicroOp where
  | nop
  | dirout
  | cache
  | aenter
  | aleave
  | snap
  | setlo
  | sethi
  | delay (n : Nat)
  | testb (k : Nat)
  | cdrop
  | shift
  | first
  | next
  deriving DecidableEq, Repr

/-- An instruction as bits: a command word that crosses the command port (R101), or a micro-operation's 4-bit code with
the operand attached to its position (R104; an operation without one has operand 0: log 26). -/
inductive Encoded where
  | cmd (word : Nat)
  | uop (code operand : Nat)
  deriving DecidableEq, Repr

/-- One line of a host program (R108): a command with its operands, or the declaration of host-owned bytes. -/
inductive HostLine where
  | init
  | showrgb (base count : Nat)
  | showargb (base count : Nat)
  | frame (addr : Nat) (bytes : List Byte)
  deriving DecidableEq, Repr

end Sys2Proof
end

