-- ==== Sys2Proof/WellFormed.lean ====
section
/-! DEFINITION. When an instruction's operands fit the fields that hold them (30_encoding.md R101, R104). -/

namespace Sys2Proof

/-- The operands fit their fields: `base` in `ADDR_W` bits, `count` in `COUNT_W` bits (R101, R103), `k` in 0..7 (R104).
`DELAY`'s operand is any natural: there is no largest `N` (R127). -/
def Instr.wf (p : Params) : Instr → Bool
  | .init => true
  | .showrgb base count => decide (base < 2 ^ p.addrW) && decide (count < 2 ^ p.countW)
  | .showargb => true
  | .reservedCommand11 => true
  | .nop => true
  | .dirout => true
  | .cache => true
  | .aenter => true
  | .aleave => true
  | .snap => true
  | .setlo => true
  | .sethi => true
  | .delay _ => true
  | .testb k => decide (k < 8)
  | .cdrop => true
  | .shift => true
  | .first => true
  | .next => true
  | .reservedUop14 => true
  | .reservedUop15 => true

end Sys2Proof
end

