-- ==== Sys2Proof/Decode.lean ====
section
/-! DEFINITION. Command words and micro-operation codes to instructions, total, rejecting by name; then the encoder, from
the same tables (30_encoding.md R101, R102, R104, R106, R107); and the mnemonics and host program lines of R108. -/

namespace Sys2Proof

/-- Why bits are no instruction. -/
inductive DecodeError where
  /-- A command word has `CMD_W` bits (R101); this number needs more. -/
  | wordTooWide
  /-- A micro-operation code has 4 bits (R104); this number needs more. -/
  | codeTooWide
  /-- The codes 14 and 15 are no micro-operation (R106). -/
  | reservedCode
  /-- `TESTB`'s operand is 0..7 (R104). -/
  | bitIndexOutOfRange
  /-- Only `DELAY` and `TESTB` have an operand (R104). -/
  | strayOperand
  deriving DecidableEq, Repr

/-- `v[lo + len - 1 : lo]` of a natural (R11). -/
def bits (v lo len : Nat) : Nat := v / 2 ^ lo % 2 ^ len

/-- `CMD_W`, the length of a command word (R101). -/
def Params.cmdW (p : Params) : Nat := 2 + p.addrW + p.countW

/-- The command a word stands for (R101, R102). No field but `op` is read for `INIT` and `SHOWARGB` (R107); `op = 11`
is the reserved command and nothing else (R106). -/
def decodeCommand (p : Params) (word : Nat) : Except DecodeError Instr :=
  if 2 ^ p.cmdW ≤ word then .error .wordTooWide
  else
    match bits word 0 2 with
    | 0 => .ok .init
    | 1 => .ok (.showrgb (bits word 2 p.addrW) (bits word (2 + p.addrW) p.countW))
    | 2 => .ok .showargb
    | _ => .ok .reservedCommand11

/-- The row of the opcode table a micro-operation is. -/
def MicroOp.instr : MicroOp → Instr
  | .nop => .nop
  | .dirout => .dirout
  | .cache => .cache
  | .aenter => .aenter
  | .aleave => .aleave
  | .snap => .snap
  | .setlo => .setlo
  | .sethi => .sethi
  | .delay n => .delay n
  | .testb k => .testb k
  | .cdrop => .cdrop
  | .shift => .shift
  | .first => .first
  | .next => .next

/-- A code without an operand: the operand must be absent, that is 0 (log 26). -/
def plainUop {α : Type} (u : α) (operand : Nat) : Except DecodeError α :=
  if operand = 0 then .ok u else .error .strayOperand

/-- The micro-operation of a 4-bit code and its operand (R104); the codes 14 and 15 are none (R106). -/
def decodeMicroOp (code operand : Nat) : Except DecodeError MicroOp :=
  match code with
  | 0 => plainUop .nop operand
  | 1 => plainUop .dirout operand
  | 2 => plainUop .cache operand
  | 3 => plainUop .aenter operand
  | 4 => plainUop .aleave operand
  | 5 => plainUop .snap operand
  | 6 => plainUop .setlo operand
  | 7 => plainUop .sethi operand
  | 8 => .ok (.delay operand)
  | 9 => if operand < 8 then .ok (.testb operand) else .error .bitIndexOutOfRange
  | 10 => plainUop .cdrop operand
  | 11 => plainUop .shift operand
  | 12 => plainUop .first operand
  | 13 => plainUop .next operand
  | 14 => .error .reservedCode
  | 15 => .error .reservedCode
  | _ => .error .codeTooWide

/-- The row of the opcode table a 4-bit code and its operand stand for: a micro-operation, or one of the two reserved rows
(log 13). -/
def decodeUop (code operand : Nat) : Except DecodeError Instr :=
  match code with
  | 14 => plainUop .reservedUop14 operand
  | 15 => plainUop .reservedUop15 operand
  | c =>
    match decodeMicroOp c operand with
    | .ok u => .ok u.instr
    | .error e => .error e

/-- The instruction that bits stand for, at either level. -/
def decode (p : Params) : Encoded → Except DecodeError Instr
  | .cmd word => decodeCommand p word
  | .uop code operand => decodeUop code operand

/-- A command word from its three fields (R101): `op | base << 2 | count << (ADDR_W + 2)`. -/
def commandWord (p : Params) (op base count : Nat) : Nat := op + base * 2 ^ 2 + count * 2 ^ (2 + p.addrW)

/-- The bits of an instruction (R101, R102, R104). The ignored fields of a command are written as zeros. -/
def encode (p : Params) : Instr → Encoded
  | .init => .cmd (commandWord p 0 0 0)
  | .showrgb base count => .cmd (commandWord p 1 base count)
  | .showargb => .cmd (commandWord p 2 0 0)
  | .reservedCommand11 => .cmd (commandWord p 3 0 0)
  | .nop => .uop 0 0
  | .dirout => .uop 1 0
  | .cache => .uop 2 0
  | .aenter => .uop 3 0
  | .aleave => .uop 4 0
  | .snap => .uop 5 0
  | .setlo => .uop 6 0
  | .sethi => .uop 7 0
  | .delay n => .uop 8 n
  | .testb k => .uop 9 k
  | .cdrop => .uop 10 0
  | .shift => .uop 11 0
  | .first => .uop 12 0
  | .next => .uop 13 0
  | .reservedUop14 => .uop 14 0
  | .reservedUop15 => .uop 15 0

/-- Whether a row of spec/opcode_table.json of `nbits` bits (in whole bytes) is a micro-operation: their codes have 4
bits, so one byte; a command word has more (R101, R104). -/
def isUopRow (nbits : Nat) : Bool := decide (nbits ≤ 8)

/-- The instruction the decoder reads from the bits `w` of a row of `nbits` bits: a micro-operation's operand lies above
the row's bits and is 0; a command word is read at the reference widths of the table, `ADDR_W = 16`, `COUNT_W = 14`. -/
def decodeTableWord (nbits w : Nat) : Option Instr :=
  match if isUopRow nbits then decodeUop w 0 else decodeCommand Params.reference w with
  | .ok i => some i
  | .error _ => none

/-- The mnemonic of R102 and R104; the reserved rows as spec/opcode_table.json names them. -/
def Instr.mnemonic : Instr → String
  | .init => "INIT"
  | .showrgb _ _ => "SHOWRGB"
  | .showargb => "SHOWARGB"
  | .reservedCommand11 => "reserved_command_op_11"
  | .nop => "NOP"
  | .dirout => "DIROUT"
  | .cache => "CACHE"
  | .aenter => "AENTER"
  | .aleave => "ALEAVE"
  | .snap => "SNAP"
  | .setlo => "SETLO"
  | .sethi => "SETHI"
  | .delay _ => "DELAY"
  | .testb _ => "TESTB"
  | .cdrop => "CDROP"
  | .shift => "SHIFT"
  | .first => "FIRST"
  | .next => "NEXT"
  | .reservedUop14 => "reserved_micro-operation_14"
  | .reservedUop15 => "reserved_micro-operation_15"

/-- One line of a micro-operation trace, `@t MNEMONIC operand` (R108). -/
def traceLine (t : Nat) : Instr → String
  | .delay n => "@" ++ toString t ++ " DELAY " ++ toString n
  | .testb k => "@" ++ toString t ++ " TESTB " ++ toString k
  | i => "@" ++ toString t ++ " " ++ i.mnemonic

/-- The command word a host program line assembles to (R101, R108); a `.frame` line is a declaration, not a command. R108
does not say what a line with an operand too wide for its field is: nothing is checked, and the operand's upper bits run
into the next field. DESIGN CHOICE, unsafe: log 34. -/
def HostLine.word (p : Params) : HostLine → Option Nat
  | .init => some (commandWord p 0 0 0)
  | .showrgb base count => some (commandWord p 1 base count)
  | .showargb base count => some (commandWord p 2 base count)
  | .frame _ _ => none

end Sys2Proof
end

