-- ==== Sys2Proof/Machine/Timing.lean ====
section
/-! DEFINITION. TimingSpec: the functions evaluated when the hardware is built (40_timing_and_delay.md R120 to R126), and
the configuration type, which exists only for parameters that pass them (R123). -/

namespace Sys2Proof

/-- `NS2CYC` (R120): both divisions truncate; a clock of 0 MHz or above 1000 MHz is a build error. -/
def ns2cyc (ns fMhz : Nat) : Except BuildError Nat :=
  if fMhz = 0 ∨ 1000 / fMhz = 0 then .error .clockOutOfRange else .ok (ns / (1000 / fMhz))

/-- `VALIDATE` (R122): the three tests are independent, one failing is enough. -/
def validate (t1 t2 t3 : Nat) : Option BuildError :=
  if t1 < minT1 ∨ t2 < minT2 ∨ t3 < minT3 then some .timingInfeasible else none

namespace Params

/-- `P`, the bit period (R6). -/
def period (p : Params) : Nat := p.t1 + p.t2 + p.t3

/-- `MASK = 1 << PIN_BIT` (R7). -/
def mask (p : Params) : Byte := 1#8 <<< p.pinBit

/-- `OV(j)`: the cycles of loop work at the end of bit `j` (R30). -/
def overhead (p : Params) (j : BitIndex) : Nat := if j = 7 then p.adjLast else p.adjBit

/-- `N1`, the phase 1 delay, in the integers (R124). -/
def n1 (p : Params) : Int := (p.t1 : Int) - p.w - p.b
/-- `N2`, the phase 2 delay, in the integers (R124). -/
def n2 (p : Params) : Int := (p.t2 : Int) - p.w
/-- `N3`, the phase 3 delay of bits 0..6, in the integers (R124). -/
def n3 (p : Params) : Int := (p.t3 : Int) - p.w - p.adjBit
/-- `N3L`, the phase 3 delay of bit 7, in the integers (R124). -/
def n3L (p : Params) : Int := (p.t3 : Int) - p.w - p.adjLast

/-- The parameter constraints of R7 and R9; `BuildError.BadParameter` when one fails (R232). -/
def constraintsHold (p : Params) : Bool :=
  decide (p.pinBit < 8)
    && decide (1 ≤ p.w) && decide (p.w ≤ 2) && decide (1 ≤ p.b) && decide (p.w + p.b ≤ 3)
    && decide (1 ≤ p.adjLast) && decide (p.w + p.adjLast ≤ 6) && decide (p.w + p.adjBit ≤ 6)
    && (decide (p.strategy = .byteLoop) || decide (p.adjBit = 0))
    && decide (1 ≤ p.lEnter) && decide (1 ≤ p.lSnap) && decide (1 ≤ p.lLoad) && decide (1 ≤ p.lLeave)
    && decide (1 ≤ p.lDir) && decide (1 ≤ p.lCache) && decide (1 ≤ p.lNop)
    && decide (1 ≤ p.addrW) && decide (3 * (2 ^ p.countW - 1) < 2 ^ p.addrW)

/-- Some delay argument is negative: `BuildError.NegativeDelay`, never a clamp (R125). -/
def delayNegative (p : Params) : Bool :=
  decide (p.n1 < 0) || decide (p.n2 < 0) || decide (p.n3 < 0) || decide (p.n3L < 0)

/-- What stops the hardware from being built, if anything (R232). Which of several errors is named first is the
model's: log 29. -/
def buildCheck (p : Params) : Option BuildError :=
  match validate p.t1 p.t2 p.t3 with
  | some e => some e
  | none =>
    if p.constraintsHold = false then some .badParameter
    else if p.delayNegative then some .negativeDelay
    else none

end Params

/-- A configuration: parameters with the proof that they can be built. No engine state exists for others (R123). -/
structure Cfg extends Params where
  built : toParams.buildCheck = none
  deriving DecidableEq, Repr

/-- The phase lengths a source stands for (R120, R121 d). -/
def TimingSource.resolve : TimingSource → Except BuildError (Nat × Nat × Nat)
  | .cycles t1 t2 t3 => .ok (t1, t2, t3)
  | .nanoseconds ns1 ns2 ns3 f =>
    match ns2cyc ns1 f, ns2cyc ns2 f, ns2cyc ns3 f with
    | .ok a, .ok b, .ok c => .ok (a, b, c)
    | .error e, _, _ => .error e
    | _, .error e, _ => .error e
    | _, _, .error e => .error e

/-- Building the hardware: resolve the timing, then check everything (R120, R122, R125, R232). `p` gives the parameters
other than `T1..T3`. -/
def build (src : TimingSource) (p : Params) : Except BuildError Cfg :=
  match src.resolve with
  | .error e => .error e
  | .ok (a, b, c) =>
    let q : Params := { p with t1 := a, t2 := b, t3 := c }
    match h : q.buildCheck with
    | none => .ok ⟨q, h⟩
    | some e => .error e

/-- The reference configuration of 95_test_vectors.md. DESIGN CHOICE, unsafe: log 2. -/
def Cfg.reference : Cfg := ⟨Params.reference, by decide⟩

/-- The reference configuration with the byte-loop strategy. DESIGN CHOICE, unsafe: log 2. -/
def Cfg.referenceByteLoop : Cfg := ⟨Params.referenceByteLoop, by decide⟩

end Sys2Proof
end

