-- ==== Sys2Proof/Machine/State.lean ====
section
/-! DEFINITION. Everything the spec gives the machine, as plain data (10_state.md R20 to R44), the faults of
60_exceptions.md R233, the model's refusals, and the state after reset. -/

namespace Sys2Proof.Machine

/-- The first component of the sequencer position (R30). At `b1`..`b8` the second component is `J`; at `idle`, `i0`,
`i1`, `a0`, `f0`..`f4` there is none. Together the 73 positions. -/
inductive Seq where
  | idle
  | i0
  | i1
  | a0
  | f0
  | f1
  | f2
  | f3
  | b1
  | b2
  | b3
  | b4
  | b5
  | b6
  | b7
  | b8
  | f4
  deriving DecidableEq, Repr

/-- An event of the observable (00_scope.md R14), stamped with the issue cycle of the operation that makes it (R12). -/
inductive Event where
  /-- A port write. -/
  | wr (cycle : Nat) (v : Byte)
  /-- An interrupt-enable write. -/
  | ie (cycle : Nat) (b : Bool)
  /-- A frame read. -/
  | rd (cycle : Nat) (addr : Nat)
  /-- The direction write. -/
  | dir (cycle : Nat)
  deriving DecidableEq, Repr

/-- Frame memory (R41): the bytes the host owns, by address, strictly rising. An unlisted address is one the host does not
own: it has no value (20_memory.md R63; log 5). -/
abbrev Memory := List Host.Cell

/-- A command word presented at the command port (44_commands.md R210) from cycle `since` on, until it is accepted. -/
structure Presented where
  since : Nat
  word : Nat
  deriving DecidableEq, Repr

/-- What an agent other than the engine may do to the machine (70_reset_and_hazards.md R260, R272, R274, R281). -/
inductive AgentAct where
  /-- Write the shared port register (R40, R272). -/
  | writePort (v : Byte)
  /-- Write the shared interrupt-enable boolean (R33). -/
  | writeIe (b : Bool)
  /-- The host makes the byte at `addr` its own, or changes it (R41, R263). -/
  | writeMem (addr : Nat) (v : Byte)
  /-- The host gives up the byte at `addr` (R63: the readable set is the host's to declare). -/
  | disown (addr : Nat)
  /-- System-wide reset, with the free inputs `IE_RESET` and `PORT_RESET` (R260). -/
  | reset (ieReset : Bool) (portReset : Byte)
  deriving DecidableEq, Repr

/-- A move of another agent and the cycle in which it happens (log 10). -/
structure AgentMove where
  cycle : Nat
  act : AgentAct
  deriving DecidableEq, Repr

/-- The state of the machine. -/
structure State where
  /-- The configuration of the built hardware. Not the spec's state (R37): no step writes it (log 1). -/
  cfg : Cfg
  /-- `SEQ` without its bit index (R30). -/
  seq : Seq
  /-- `J`: how many bits of the current byte have been sent; the second component of `SEQ` (R28). -/
  j : BitIndex
  /-- `HI` (R21). -/
  hi : Byte
  /-- `LO` (R22). -/
  lo : Byte
  /-- `CUR`, the byte being sent, or what is left of it in the shift register (R23). -/
  cur : Byte
  /-- `TBIT` (R32). -/
  tbit : Bool
  /-- `MASK_C` (R24). -/
  maskC : Byte
  /-- `PORT_C` (R25). -/
  portC : PortId
  /-- `PTR`, below `2^ADDR_W` (R26; log 17). -/
  ptr : Nat
  /-- `REM`, below `2^(COUNT_W+2)` (R27; log 17). -/
  rem : Nat
  /-- `DLY`, the hidden delay counter (R29). -/
  dly : Nat
  /-- `IE` (R33). -/
  ie : Bool
  /-- `PORT` (R40). -/
  port : Byte
  /-- `DIR` (R36). -/
  dir : Bool
  /-- `INITED`, ghost (R35). -/
  inited : Bool
  /-- Frame memory (R41). -/
  mem : Memory
  /-- `CYC`, ghost (R38). -/
  cyc : Nat
  /-- `EV`, ghost, in issue order (R39). -/
  ev : List Event
  /-- The command port: the words the host presents, oldest first (44_commands.md R210; log 9). -/
  cmds : List Presented
  /-- The moves of other agents still to happen, oldest first (log 10). -/
  agents : List AgentMove
  deriving DecidableEq, Repr

/-- The model-level faults: the closed list of 60_exceptions.md R233. The hardware signals none of them. -/
inductive Fault where
  /-- Raised by `SHOWRGB` at acceptance when `INITED = 0` (R214). Safe: the hardware would go on with an undefined mask. -/
  | showBeforeInit
  /-- Raised by the load in `FIRST` or `NEXT` when the address is not host-owned or the frame wraps the address space
  (R63, R73). Safe: the hardware would send whatever the platform returns. -/
  | frameOutOfBounds
  /-- `PremiseBroken.PortWrittenDuringFrame`: raised by a step when another agent writes `PORT` while `BUSY = 1` (R272).
  Safe: the hardware would go on. -/
  | portWrittenDuringFrame
  /-- `PremiseBroken.IeWrittenDuringFrame`: raised by a step when another agent writes `IE` while `BUSY = 1` (R233).
  Safe: the hardware would go on. -/
  | ieWrittenDuringFrame
  deriving DecidableEq, Repr

/-- What the model gives no meaning to. -/
inductive Refusal where
  /-- Raised by an arm of `exec` for an instruction without a meaning. Safe. No arm raises it. -/
  | notModelled (mnemonic : String)
  /-- Raised by the reserved command `op = 11` (R106: "The model treats a program that issues it as *refused*"). Safe. -/
  | reservedCommand
  /-- Raised by the reserved micro-operation codes 14 and 15 (R106: "reserved and never issued"). Safe. -/
  | reservedMicroOperation (code : Nat)
  /-- Raised by a step at `IDLE` when the presented number is no command word (R101; log 16). Safe. -/
  | malformedCommand (e : DecodeError)
  /-- Raised by `SNAP`, `SETLO`, `SETHI` and a dropping `CDROP` when `PORT_C` does not name the one port register
  (R60, R214; log 12). Safe; no run from reset reaches it in a frame. -/
  | portNotNamed
  /-- Raised by a step when another agent changes frame memory while `BUSY = 1` (R274: "the host has no such move";
  log 11). Safe. -/
  | memoryMoveWhileBusy
  /-- Raised by a step when another agent names a memory address outside the frame space (R60; log 11). Safe. -/
  | noSuchAddress
  deriving DecidableEq, Repr

/-- The state right after the reset event of 70_reset_and_hazards.md R260, for a configuration and the free inputs
`IE_RESET` and `PORT_RESET` (R44). The registers R44 calls unspecified hold 0: DESIGN CHOICE, unsafe, log 3. -/
def State.resetWith (c : Cfg) (ieReset : Bool) (portReset : Byte) (mem : Memory) : State :=
  { cfg := c, seq := .idle, j := 0, hi := 0, lo := 0, cur := 0, tbit := false, maskC := 0, portC := 0, ptr := 0,
    rem := 0, dly := 0, ie := ieReset, port := portReset, dir := false, inited := false, mem := mem, cyc := 0, ev := [],
    cmds := [], agents := [] }

/-- The machine right after reset: the reference configuration (log 2), `IE_RESET = 0` and `PORT_RESET = 0` (DESIGN
CHOICE, unsafe: log 4), no frame memory listed (log 5), nothing presented. -/
def State.reset : State := State.resetWith Cfg.reference false 0 []

end Sys2Proof.Machine
end

