-- ==== Sys2Proof/Machine/Ops.lean ====
section
/-! DEFINITION. The named operations over registers, port and frame memory (00_scope.md R13, 20_memory.md), each once.
There is no operation for taking an exception or returning from one: the engine has no trap entry (60_exceptions.md R239)
and no trap return (R240). The atomic region's two writes of `IE` go through `State.writeIe`. -/

namespace Sys2Proof.Machine

/-- What an operation answers. -/
abbrev Result := Host.Outcome State Fault Refusal

/-! ### Frame memory -/

/-- The canonical form of frame memory: addresses strictly rising. -/
abbrev Memory.wf (m : Memory) : Prop := m.Pairwise (fun x y => x.1 < y.1)

/-- Every listed address lies in a frame space of `n` addresses (20_memory.md R60). -/
def Memory.inSpace (m : Memory) (n : Nat) : Prop := ∀ c ∈ m, c.1 < n

/-- The byte the host's memory holds at an address, if the host owns it (20_memory.md R62, R63). -/
def Memory.read : Memory → Nat → Option Byte
  | [], _ => none
  | (b, v) :: m, a => if a = b then some v else Memory.read m a

/-- The host owns the byte at `a` and it holds `v` from now on. -/
def Memory.write : Memory → Nat → Byte → Memory
  | [], a, v => [(a, v)]
  | (b, w) :: m, a, v =>
    if a < b then (a, v) :: (b, w) :: m
    else if a = b then (a, v) :: m
    else (b, w) :: Memory.write m a v

/-- The host no longer owns the byte at `a`. -/
def Memory.disown (m : Memory) (a : Nat) : Memory := m.filter (fun c => decide (c.1 ≠ a))

/-- The host owns consecutive bytes from `a` on (the `.frame` line of R108). -/
def Memory.declare (m : Memory) (a : Nat) : List Byte → Memory
  | [] => m
  | v :: vs => Memory.declare (m.write a v) (a + 1) vs

/-! ### Status, time and position -/

/-- `BUSY = (SEQ != IDLE)` (10_state.md R34). -/
def State.busy (s : State) : Bool := decide (s.seq ≠ .idle)

/-- `tick(n)` (R13). -/
def State.tick (n : Nat) (s : State) : State := { s with cyc := s.cyc + n }

/-- Append an event to `EV` (R14). -/
def State.emit (e : Event) (s : State) : State := { s with ev := s.ev ++ [e] }

/-- `SEQ <- q` (R13). -/
def State.goto (q : Seq) (s : State) : State := { s with seq := q }

/-- The position after `q` in table order (10_state.md R31), where no micro-operation chooses. -/
def nextSeq : Seq → Seq
  | .idle => .idle
  | .i0 => .i1
  | .i1 => .idle
  | .a0 => .idle
  | .f0 => .f1
  | .f1 => .f2
  | .f2 => .f3
  | .f3 => .b1
  | .b1 => .b2
  | .b2 => .b3
  | .b3 => .b4
  | .b4 => .b5
  | .b5 => .b6
  | .b6 => .b7
  | .b7 => .b8
  | .b8 => .b1
  | .f4 => .idle

/-- The end of a micro-operation of latency `n`: `tick(n)`, then the next position in table order (R12, R31). -/
def State.finish (n : Nat) (s : State) : State := (s.tick n).goto (nextSeq s.seq)

/-- End a micro-operation of latency `n` where the operation so far answers a next state. -/
def thenFinish (n : Nat) : Result → Result
  | .next s => .next (s.finish n)
  | .fault f => .fault f
  | .refused r => .refused r

/-- `J <- J + 1`, performed only when `J < 7` (43_frame_transmitter.md R204 f). -/
def bumpJ (j : BitIndex) : BitIndex := if j.val < 7 then j + 1 else j

/-! ### The pin and its port -/

/-- `PORT_C` names the one register of port space (20_memory.md R60 b). -/
def State.portNamed (s : State) : Bool := decide (s.portC = s.cfg.portId)

/-- `PortRead()`: the stored value of the register `PORT_C` names (R66); no side effect, no event. -/
def State.portRead (s : State) : Option Byte := if s.portNamed then some s.port else none

/-- `PortWrite(v)`: all 8 bits at once, in this cycle, with its event (R67). -/
def State.portWrite (v : Byte) (s : State) : Result :=
  if s.portNamed then .next ({ s with port := v }.emit (.wr s.cyc v)) else .refused .portNotNamed

/-- `SetDir()` (R13): `DIR <- 1` with its event. -/
def State.setDir (s : State) : State := { s with dir := true }.emit (.dir s.cyc)

/-- `IE <- b` (R13) with its event. -/
def State.writeIe (b : Bool) (s : State) : State := { s with ie := b }.emit (.ie s.cyc b)

/-- `LINE` now: bit `PIN_BIT` of `PORT` while the pin is an output, no value otherwise (10_state.md R36). -/
def State.line (s : State) : Option Bool := if s.dir then some (decide (s.port &&& s.cfg.mask ≠ 0)) else none

/-! ### Loads -/

/-- The load of `FIRST` and `NEXT` (42_bit_encoder.md R167, R168): nothing but `SEQ <- F4` when no byte is left; else the
byte at `PTR`, once, with its event. A frame that would wrap the address space faults at its first load (20_memory.md R73;
log 6), a byte the host does not own faults at its own load (R63). -/
def State.loadByte (latency : Nat) (s : State) : Result :=
  if s.rem = 0 then .next ((s.goto .f4).tick latency)
  else if 2 ^ s.cfg.addrW < s.ptr + s.rem then .fault .frameOutOfBounds
  else
    match s.mem.read s.ptr with
    | none => .fault .frameOutOfBounds
    | some v =>
      .next (({ s with cur := v, ptr := (s.ptr + 1) % 2 ^ s.cfg.addrW, rem := s.rem - 1, j := 0, seq := .b1 }.emit
        (.rd s.cyc s.ptr)).tick latency)

/-! ### The command port -/

/-- A command is accepted only at `IDLE` (44_commands.md R210). Presented while `BUSY = 1` it is not accepted and not
lost: nothing changes. -/
def State.whenIdle (s : State) (r : Result) : Result := if s.busy then .next s else r

/-- Acceptance: the word leaves the command port and `SEQ` takes the command's first position, in this cycle (R210). -/
def State.accept (q : Seq) (s : State) : State := { s with seq := q, cmds := s.cmds.tail }

/-! ### Other agents and reset -/

/-- The reset event (70_reset_and_hazards.md R260, R261): every element to its reset value; the configuration and the
host's own things (frame memory, what it will present, what other agents will do) stay (log 19). -/
def State.systemReset (ieReset : Bool) (portReset : Byte) (s : State) : State :=
  { State.resetWith s.cfg ieReset portReset s.mem with cmds := s.cmds, agents := s.agents }

/-- A change of frame memory by the host: only at `IDLE` (R274), only inside the frame space (R60). -/
def State.hostMemory (addr : Nat) (f : Memory → Memory) (s : State) : Result :=
  if s.busy then .refused .memoryMoveWhileBusy
  else if 2 ^ s.cfg.addrW ≤ addr then .refused .noSuchAddress
  else .next { s with mem := f s.mem }

/-- What another agent's act does (R233, R260, R272, R274, R281). -/
def State.land (act : AgentAct) (s : State) : Result :=
  match act with
  | .writePort v => if s.busy then .fault .portWrittenDuringFrame else .next { s with port := v }
  | .writeIe b => if s.busy then .fault .ieWrittenDuringFrame else .next { s with ie := b }
  | .writeMem addr v => s.hostMemory addr (fun m => m.write addr v)
  | .disown addr => s.hostMemory addr (fun m => m.disown addr)
  | .reset ieReset portReset => .next (s.systemReset ieReset portReset)

end Sys2Proof.Machine
end

