-- ==== Sys2Proof/Machine/Operands.lean ====
section
/-! DEFINITION. The operands of commands (30_encoding.md R103) and of micro-operations (R105), and the latency of every
micro-operation (70_reset_and_hazards.md R282). -/

namespace Sys2Proof.Machine

/-- `3 * zext(count)` in the `COUNT_W + 2` bits of `REM` (R103, 10_state.md R27). -/
def frameLength (p : Params) (count : Nat) : Nat := 3 * count % 2 ^ (p.countW + 2)

/-- `base` in the `ADDR_W` bits of `PTR` (R103, 10_state.md R26). -/
def frameBase (p : Params) (base : Nat) : Nat := base % 2 ^ p.addrW

/-- The operand of the `DELAY` of phase 1 (R105). The configuration's proof makes `N1` non-negative, so nothing is
clamped; likewise for the other phases (R125, R126). -/
def delayPhase1 (p : Params) : Nat := p.n1.toNat

/-- The operand of the `DELAY` of phase 2 (R105). -/
def delayPhase2 (p : Params) : Nat := p.n2.toNat

/-- The operand of the `DELAY` of phase 3, shorter in the last bit of a byte (R105). -/
def delayPhase3 (p : Params) (j : BitIndex) : Nat := if j = 7 then p.n3L.toNat else p.n3.toNat

/-- The operand of `TESTB`: `7 - j` unrolled, 7 in the byte loop (R105). -/
def testedBit (p : Params) (j : BitIndex) : Nat :=
  match p.strategy with
  | .unrolled => 7 - j.val
  | .byteLoop => 7

/-- The latency of every micro-operation (R282). A command itself takes no cycle: its micro-operations do (R210). -/
def latency (p : Params) : Instr → Nat
  | .init => 0
  | .showrgb _ _ => 0
  | .showargb => 0
  | .reservedCommand11 => 0
  | .nop => p.lNop
  | .dirout => p.lDir
  | .cache => p.lCache
  | .aenter => p.lEnter
  | .aleave => p.lLeave
  | .snap => p.lSnap
  | .setlo => p.w
  | .sethi => p.w
  | .delay n => n
  | .testb _ => p.b
  | .cdrop => p.w
  | .shift => p.adjBit
  | .first => p.lLoad
  | .next => p.adjLast
  | .reservedUop14 => 0
  | .reservedUop15 => 0

end Sys2Proof.Machine
end

