-- ==== Sys2Proof/Machine/Flags.lean ====
section
/-! DEFINITION. The one flag, `TBIT` (10_state.md R32): its value and its test. No operation sets a carry, zero, sign or
overflow flag (43_frame_transmitter.md R204). -/

namespace Sys2Proof.Machine

/-- The bit test: `CUR[k]` (42_bit_encoder.md R162). -/
def bitTest (cur : Byte) (k : Nat) : Bool := cur.getLsbD k

/-- The condition of `CDROP`: the tested bit was 0 (R163). -/
def State.drops (s : State) : Bool := !s.tbit

end Sys2Proof.Machine
end

