-- ==== Sys2Proof/Machine/Bit.lean ====
section
/-! DEFINITION. The bit encoder: `DELAY` (40_timing_and_delay.md R127, R128) and `TESTB`, `CDROP`, `SHIFT`, `FIRST`,
`NEXT` (42_bit_encoder.md R162 to R168). -/

namespace Sys2Proof.Machine

/-- `DELAY N` (R127): exactly `N` cycles and nothing else. The counter `DLY` is loaded with `N` and the next position is
entered when it reaches zero (R129), so it is zero afterwards. -/
def execDelay (n : Nat) (s : State) : Result := .next ({ s with dly := 0 }.finish n)

/-- `TESTB k` (R162). -/
def execTestb (k : Nat) (s : State) : Result := .next ({ s with tbit := bitTest s.cur k }.finish s.cfg.b)

/-- `CDROP` (R163): the port is written with `LO` only when the tested bit is 0; `W` cycles either way. -/
def execCdrop (s : State) : Result := thenFinish s.cfg.w (if s.drops then s.portWrite s.lo else .next s)

/-- `SHIFT` (R166): left by one, zero fill; then the next bit. -/
def execShift (s : State) : Result :=
  .next (({ s with cur := s.cur <<< 1, j := bumpJ s.j }.tick s.cfg.adjBit).goto .b1)

/-- `FIRST` (R168): the first byte, or an empty frame. -/
def execFirst (s : State) : Result := s.loadByte s.cfg.lLoad

/-- `NEXT` (R167): the next byte, or the end of the frame. -/
def execNext (s : State) : Result := s.loadByte s.cfg.adjLast

end Sys2Proof.Machine
end

