-- ==== Sys2Proof/Machine/Command.lean ====
section
/-! DEFINITION. The host commands: the acceptance of `INIT`, `SHOWRGB`, `SHOWARGB` (44_commands.md R210 to R215). Their
micro-operations run in the steps that follow, from the same cycle on (log 7). -/

namespace Sys2Proof.Machine

/-- `INIT` (R211): positions `I0`, `I1` follow. -/
def execInit (s : State) : Result := s.whenIdle (.next (s.accept .i0))

/-- `SHOWRGB base, count` (R213): faults before `INIT` (R214); else the operands are latched and the frame schedule
follows from `F0`. -/
def execShowrgb (base count : Nat) (s : State) : Result :=
  s.whenIdle
    (if s.inited then
      .next ({ s with ptr := frameBase s.cfg.toParams base, rem := frameLength s.cfg.toParams count }.accept .f0)
    else .fault .showBeforeInit)

/-- `SHOWARGB` (R215): position `A0` follows; no operand is used; legal before `INIT`. -/
def execShowargb (s : State) : Result := s.whenIdle (.next (s.accept .a0))

end Sys2Proof.Machine
end

