-- ==== Sys2Proof/Machine/Frame.lean ====
section
/-! DEFINITION. The atomic bracket `AENTER`, `ALEAVE` (43_frame_transmitter.md R191, R192) and `NOP` (44_commands.md
R215). -/

namespace Sys2Proof.Machine

/-- `AENTER` (R191): `IE <- 0`; the old value is neither read nor saved. -/
def execAenter (s : State) : Result := .next ((s.writeIe false).finish s.cfg.lEnter)

/-- `ALEAVE` (R192): `IE <- 1`, unconditionally; then `IDLE`. -/
def execAleave (s : State) : Result := .next (((s.writeIe true).tick s.cfg.lLeave).goto .idle)

/-- `NOP` (R215): time passes, nothing changes, no event; then `IDLE`. -/
def execNop (s : State) : Result := .next ((s.tick s.cfg.lNop).goto .idle)

end Sys2Proof.Machine
end

