-- ==== Sys2Proof/Machine/Port.lean ====
section
/-! DEFINITION. The port operations: `DIROUT`, `CACHE`, `SNAP`, `SETLO`, `SETHI` (41_port_ops.md R141 to R146). -/

namespace Sys2Proof.Machine

/-- `DIROUT` (R141): the line is driven from this cycle on; `PORT` is not written. -/
def execDirout (s : State) : Result := .next (s.setDir.finish s.cfg.lDir)

/-- `CACHE` (R142): the pin's mask and port identity into `MASK_C` and `PORT_C`. -/
def execCache (s : State) : Result :=
  .next ({ s with maskC := s.cfg.mask, portC := s.cfg.portId, inited := true }.finish s.cfg.lCache)

/-- `SNAP` (R143): one port read; `HI` and `LO` differ from it in the pin's bit only. -/
def execSnap (s : State) : Result :=
  match s.portRead with
  | none => .refused .portNotNamed
  | some v => .next ({ s with hi := v ||| s.maskC, lo := v &&& ~~~s.maskC }.finish s.cfg.lSnap)

/-- `SETLO` (R145): written even when the port already holds `LO`. -/
def execSetlo (s : State) : Result := thenFinish s.cfg.w (s.portWrite s.lo)

/-- `SETHI` (R146), the raise. -/
def execSethi (s : State) : Result := thenFinish s.cfg.w (s.portWrite s.hi)

end Sys2Proof.Machine
end

