-- ==== Sys2Proof/Machine/Reserved.lean ====
section
/-! DEFINITION. The reserved rows of the opcode table (30_encoding.md R106): the spec gives them no meaning. -/

namespace Sys2Proof.Machine

/-- The reserved command `op = 11` (R106, R216): "The model treats a program that issues it as *refused*: the model gives
it no meaning." -/
def execReservedCommand (_s : State) : Result := .refused .reservedCommand

/-- The reserved micro-operation code 14 (R106): "reserved and never issued". -/
def execReservedUop14 (_s : State) : Result := .refused (.reservedMicroOperation 14)

/-- The reserved micro-operation code 15 (R106): "reserved and never issued". -/
def execReservedUop15 (_s : State) : Result := .refused (.reservedMicroOperation 15)

end Sys2Proof.Machine
end

