-- ==== Sys2Proof/Machine/Dispatch.lean ====
section
/-! DEFINITION. One arm per constructor of `Instr`, each one direct call of that instruction's meaning. -/

namespace Sys2Proof.Machine

def exec (i : Instr) (s : State) : Host.Outcome State Fault Refusal :=
  match i with
  | .init => Sys2Proof.Machine.execInit s
  | .showrgb base count => Sys2Proof.Machine.execShowrgb base count s
  | .showargb => Sys2Proof.Machine.execShowargb s
  | .reservedCommand11 => Sys2Proof.Machine.execReservedCommand s
  | .nop => Sys2Proof.Machine.execNop s
  | .dirout => Sys2Proof.Machine.execDirout s
  | .cache => Sys2Proof.Machine.execCache s
  | .aenter => Sys2Proof.Machine.execAenter s
  | .aleave => Sys2Proof.Machine.execAleave s
  | .snap => Sys2Proof.Machine.execSnap s
  | .setlo => Sys2Proof.Machine.execSetlo s
  | .sethi => Sys2Proof.Machine.execSethi s
  | .delay n => Sys2Proof.Machine.execDelay n s
  | .testb k => Sys2Proof.Machine.execTestb k s
  | .cdrop => Sys2Proof.Machine.execCdrop s
  | .shift => Sys2Proof.Machine.execShift s
  | .first => Sys2Proof.Machine.execFirst s
  | .next => Sys2Proof.Machine.execNext s
  | .reservedUop14 => Sys2Proof.Machine.execReservedUop14 s
  | .reservedUop15 => Sys2Proof.Machine.execReservedUop15 s

end Sys2Proof.Machine
end

