-- ==== Sys2Proof/Machine/Sequencer.lean ====
section
/-! DEFINITION. The sequencer: what issues at each position (10_state.md R30), when another agent's move lands, how a
micro-operation or a command is placed for the next step, and how a host program is presented (30_encoding.md R108). -/

namespace Sys2Proof.Machine

/-- The micro-operation a position names (R30); none at `IDLE` and at `(B8, j)`, `j < 7`, unrolled. -/
def uopAt (p : Params) (q : Seq) (j : BitIndex) : Option MicroOp :=
  match q with
  | .idle => none
  | .i0 => some .dirout
  | .i1 => some .cache
  | .a0 => some .nop
  | .f0 => some .aenter
  | .f1 => some .snap
  | .f2 => some .setlo
  | .f3 => some .first
  | .b1 => some .sethi
  | .b2 => some (.delay (delayPhase1 p))
  | .b3 => some (.testb (testedBit p j))
  | .b4 => some .cdrop
  | .b5 => some (.delay (delayPhase2 p))
  | .b6 => some .setlo
  | .b7 => some (.delay (delayPhase3 p j))
  | .b8 =>
    if j = 7 then some .next
    else
      match p.strategy with
      | .byteLoop => some .shift
      | .unrolled => none
  | .f4 => some .aleave

/-- What a step does when no other agent's move lands. -/
inductive Issue where
  /-- An instruction issues: the accepted command, or the micro-operation of the position. -/
  | op (i : Instr)
  /-- `(B8, j)`, `j < 7`, unrolled: nothing issues, the next bit begins (R30, R166; log 22). -/
  | bitEnd
  /-- `IDLE` with no command presented (60_exceptions.md R248). -/
  | waits
  /-- `IDLE` with a number presented that is no command word (log 16). -/
  | malformed (e : DecodeError)
  deriving DecidableEq, Repr

/-- What the engine does next (R30, 44_commands.md R210). -/
def State.issue (s : State) : Issue :=
  if s.busy then
    match uopAt s.cfg.toParams s.seq s.j with
    | some u => .op u.instr
    | none => .bitEnd
  else
    match s.cmds with
    | [] => .waits
    | c :: _ =>
      if s.cyc < c.since then .waits
      else
        match decodeCommand s.cfg.toParams c.word with
        | .ok i => .op i
        | .error e => .malformed e

/-- The end of a bit with nothing to issue (R166: `J <- J + 1` only, zero cycles). -/
def State.bitEnd (s : State) : State := { s with j := bumpJ s.j, seq := .b1 }

/-- The cycles this step looks at for other agents' moves: those the issuing micro-operation occupies (00_scope.md R12),
at least the present one. -/
def State.window (s : State) : Nat :=
  match s.issue with
  | .op i => max 1 (latency s.cfg.toParams i)
  | .bitEnd => 1
  | .waits => 1
  | .malformed _ => 1

/-- The other agents' next move, with the moves after it, if it happens before the next step's issue (log 10). -/
def State.dueMove (s : State) : Option (AgentMove × List AgentMove) :=
  match s.agents with
  | [] => none
  | m :: rest => if m.cycle < s.cyc + s.window then some (m, rest) else none

/-! ### Placing what runs next -/

/-- Present a command word at `IDLE`, before anything else (log 24). -/
def State.placeCommand (word : Nat) (s : State) : State :=
  { s with seq := .idle, cmds := ⟨s.cyc, word⟩ :: s.cmds, agents := [] }

/-- A position at which `DELAY 0` issues, and the configuration that has one (log 24). -/
def State.placeDelayZero (s : State) : State :=
  if delayPhase3 s.cfg.toParams 7 = 0 then { s with seq := .b7, j := 7 }
  else if delayPhase1 s.cfg.toParams = 0 then { s with seq := .b2 }
  else if delayPhase2 s.cfg.toParams = 0 then { s with seq := .b5 }
  else if delayPhase3 s.cfg.toParams 0 = 0 then { s with seq := .b7, j := 0 }
  else { s with cfg := Cfg.reference, seq := .b7, j := 7 }

/-- The position at which the micro-operation of a code, its operand 0, issues (R30). `TESTB 0` needs an unrolled build
and `SHIFT` a byte-loop build, so where the build is the other one the reference build of that kind stands in. Codes 14
and 15 have no position: nothing is placed (log 24). -/
def State.placeUop (code : Nat) (s : State) : State :=
  let q : State := { s with agents := [] }
  match code with
  | 0 => q.goto .a0
  | 1 => q.goto .i0
  | 2 => q.goto .i1
  | 3 => q.goto .f0
  | 4 => q.goto .f4
  | 5 => q.goto .f1
  | 6 => q.goto .f2
  | 7 => q.goto .b1
  | 8 => q.placeDelayZero
  | 9 => { q with cfg := if s.cfg.strategy = .unrolled then s.cfg else Cfg.reference, seq := .b3, j := 7 }
  | 10 => q.goto .b4
  | 11 => { q with cfg := if s.cfg.strategy = .byteLoop then s.cfg else Cfg.referenceByteLoop, seq := .b8, j := 0 }
  | 12 => q.goto .f3
  | 13 => { q with seq := .b8, j := 7 }
  | _ => q

/-- One line of a host program (R108): a command is presented after those already presented, from cycle 0 on; a `.frame`
line declares host-owned bytes. R108 does not say what a `.frame` line at or past address `2^ADDR_W` is: the addresses are
listed as written, with no check and no wrap. DESIGN CHOICE, safe: log 33. Nor does it say what two `.frame` lines that name
the same address declare: the later line's byte stands. DESIGN CHOICE, unsafe: log 35. -/
def State.withLine (s : State) (l : HostLine) : State :=
  match l with
  | .frame addr bytes => { s with mem := s.mem.declare addr bytes }
  | other =>
    match other.word s.cfg.toParams with
    | some word => { s with cmds := s.cmds ++ [⟨0, word⟩] }
    | none => s

/-- A host program presented to a machine, one command after the other (R108, 95_test_vectors.md section 3). Every `.frame`
line is declared before the first command runs, wherever it stands among them. DESIGN CHOICE, unsafe: log 35. -/
def State.withProgram (s : State) (lines : List HostLine) : State := lines.foldl State.withLine s

end Sys2Proof.Machine
end

