-- ==== Sys2Proof/Machine/Step.lean ====
section
/-! DEFINITION. One step: another agent's move if one is due, else what the sequencer issues. -/

namespace Sys2Proof.Machine

/-- One step of the machine. A step is one micro-operation with its whole latency (00_scope.md R12), the acceptance of
one command (44_commands.md R210), one waiting cycle at `IDLE`, the end of an unrolled bit, or one move of another
agent. -/
def step (s : State) : Host.Outcome State Fault Refusal :=
  match s.dueMove with
  | some (m, rest) => State.land m.act { s with agents := rest }
  | none =>
    match s.issue with
    | .op i => exec i s
    | .bitEnd => .next s.bitEnd
    | .waits => .next (s.tick 1)
    | .malformed e => .refused (.malformedCommand e)

/-- The state whose next step runs the instruction of a row of spec/opcode_table.json with the bits `w` (log 24). -/
def State.withFetchWord (s : State) (nbits w : Nat) : State :=
  if isUopRow nbits then s.placeUop w else s.placeCommand w

end Sys2Proof.Machine
end

