-- ==== Sys2Proof/Machine/Wire.lean ====
section
/-! DEFINITION. The observable in closed form: the wire format (30_encoding.md R90 to R92), the line level and the pulse
trace of an event list (00_scope.md R14, 10_state.md R36), the events of a frame (43_frame_transmitter.md R195, R196) and
the micro-operation schedule with its issue cycles (42_bit_encoder.md R160, R193). -/

namespace Sys2Proof.Machine

/-! ### Wire format -/

/-- `Symbol(b)` (R90): a run-length list of (level, cycles). -/
def symbol (p : Params) (b : Bool) : List (Bool × Nat) :=
  [(true, p.t1 + b.toNat * p.t2), (false, (1 - b.toNat) * p.t2 + p.t3)]

/-- The bits of a byte in the order of sending, bit 7 first (R91). -/
def byteBits (v : Byte) : List Bool :=
  [v.getLsbD 7, v.getLsbD 6, v.getLsbD 5, v.getLsbD 4, v.getLsbD 3, v.getLsbD 2, v.getLsbD 1, v.getLsbD 0]

/-- The bits of a frame in the order of sending (R92). -/
def frameBits (bytes : List Byte) : List Bool := bytes.flatMap byteBits

/-- The pulse trace a frame must have (R92): its symbols, back to back. -/
def frameSymbols (p : Params) (bytes : List Byte) : List (Bool × Nat) := (frameBits bytes).flatMap (symbol p)

/-! ### The line of an event list -/

/-- The value of the last `Wr(t, v)` with `t <= c`, if there is one (R14). -/
def lastWr (ev : List Event) (c : Nat) : Option Byte :=
  ev.foldl (fun o e =>
    match e with
    | .wr t v => if t ≤ c then some v else o
    | .ie _ _ => o
    | .rd _ _ => o
    | .dir _ => o) none

/-- Whether an event is a direction write of cycle `c` or before. -/
def Event.drivesBy (c : Nat) : Event → Bool
  | .wr _ _ => false
  | .ie _ _ => false
  | .rd _ _ => false
  | .dir t => decide (t ≤ c)

/-- `DIR` at cycle `c`: 1 if it was before the list, or from the first `Dir(t)` on (R14, R36: nothing clears it). -/
def dirAt (driven : Bool) (ev : List Event) (c : Nat) : Bool := driven || ev.any (Event.drivesBy c)

/-- The level of R14: 1 if the last write by cycle `c` has the pin's bit set, else 0. -/
def levelAt (mask : Byte) (ev : List Event) (c : Nat) : Bool :=
  match lastWr ev c with
  | some v => decide (v &&& mask ≠ 0)
  | none => false

/-- `LINE(c)` of an event list (R14): a level only while `DIR = 1`. -/
def lineAt (mask : Byte) (driven : Bool) (ev : List Event) (c : Nat) : Option Bool :=
  if dirAt driven ev c then some (levelAt mask ev c) else none

/-- `PORT` at cycle `c`: the last write of the list, `before` where there is none. -/
def portAt (before : Byte) (ev : List Event) (c : Nat) : Byte := (lastWr ev c).getD before

/-- `LINE(c)` by the port register (10_state.md R36): where no write of the list precedes, the bit `PORT` had before it.
From the first write on it is `lineAt`; before, R14 to the letter says 0 (log 18). -/
def portLineAt (mask : Byte) (driven : Bool) (before : Byte) (ev : List Event) (c : Nat) : Option Bool :=
  if dirAt driven ev c then some (decide (portAt before ev c &&& mask ≠ 0)) else none

/-- The run-length list of a list (R14). -/
def runLengths {α : Type} [DecidableEq α] : List α → List (α × Nat)
  | [] => []
  | b :: bs =>
    match runLengths bs with
    | [] => [(b, 1)]
    | (c, n) :: rest => if b = c then (c, n + 1) :: rest else (b, 1) :: (c, n) :: rest

/-- `LINE` over `n` cycles from cycle `c` on. -/
def levels (mask : Byte) (driven : Bool) (ev : List Event) (c : Nat) : Nat → List (Option Bool)
  | 0 => []
  | n + 1 => lineAt mask driven ev c :: levels mask driven ev (c + 1) n

/-- The pulse trace of the span of `n` cycles from cycle `c` on (R14). -/
def pulseTrace (mask : Byte) (driven : Bool) (ev : List Event) (c n : Nat) : List (Option Bool × Nat) :=
  runLengths (levels mask driven ev c n)

/-- A run-length list of levels as that of a driven line. -/
def onLine (l : List (Bool × Nat)) : List (Option Bool × Nat) := l.map (fun x => (some x.1, x.2))

/-! ### Reading an event list -/

/-- The cycle an event is stamped with (R12). -/
def Event.cycle : Event → Nat
  | .wr t _ => t
  | .ie t _ => t
  | .rd t _ => t
  | .dir t => t

/-- The same event `d` cycles later (R203). -/
def Event.later (d : Nat) : Event → Event
  | .wr t v => .wr (t + d) v
  | .ie t b => .ie (t + d) b
  | .rd t a => .rd (t + d) a
  | .dir t => .dir (t + d)

/-- Whether an event is a port write. -/
def Event.isWr : Event → Bool
  | .wr _ _ => true
  | .ie _ _ => false
  | .rd _ _ => false
  | .dir _ => false

/-- The address an event reads, if it is a frame read. -/
def Event.readAddr : Event → Option Nat
  | .wr _ _ => none
  | .ie _ _ => none
  | .rd _ a => some a
  | .dir _ => none

/-- The levels a run-length list stands for, one per cycle (R90). -/
def expand (l : List (Bool × Nat)) : List Bool := l.flatMap (fun x => List.replicate x.2 x.1)

/-! ### The events of a frame -/

/-- The port writes of one bit whose `SETHI` issues at `s` (R170). -/
def bitEvents (p : Params) (hi lo : Byte) (s : Nat) (b : Bool) : List Event :=
  if b then [.wr s hi, .wr (s + p.t1 + p.t2) lo]
  else [.wr s hi, .wr (s + p.t1) lo, .wr (s + p.t1 + p.t2) lo]

/-- The port writes of bits sent back to back from cycle `s` on (R196, R198). -/
def bitsEvents (p : Params) (hi lo : Byte) (s : Nat) : List Bool → List Event
  | [] => []
  | b :: bs => bitEvents p hi lo s b ++ bitsEvents p hi lo (s + p.period) bs

/-- The events of the bytes of a frame, the first already loaded from `addr` and sent from cycle `s` on: every further
byte is read `ADJ_LAST` cycles before its first raise (R196). -/
def bytesEvents (p : Params) (hi lo : Byte) (s addr : Nat) : List Byte → List Event
  | [] => []
  | [v] => bitsEvents p hi lo s (byteBits v)
  | v :: u :: us =>
    bitsEvents p hi lo s (byteBits v) ++ .rd (s + 8 * p.period - p.adjLast) (addr + 1) ::
      bytesEvents p hi lo (s + 8 * p.period) (addr + 1) (u :: us)

/-- `t0`: the cycle of the first raise of a frame accepted at `t` (section 3 of 43_frame_transmitter.md). -/
def firstRaise (p : Params) (t : Nat) : Nat := t + p.lEnter + p.lSnap + p.w + p.lLoad

/-- The cycle at which a frame's `ALEAVE` issues (R196). -/
def frameLeave (p : Params) (t count : Nat) : Nat := firstRaise p t + 24 * count * p.period

/-- The cycles a frame takes from acceptance to `IDLE` (R197). -/
def frameCycles (p : Params) (count : Nat) : Nat :=
  24 * count * p.period + (p.lEnter + p.lSnap + p.w + p.lLoad + p.lLeave)

/-- Every event of a frame of `count` LEDs accepted at cycle `t`, in issue order (R195, R196). -/
def frameEvents (p : Params) (hi lo : Byte) (t base count : Nat) (bytes : List Byte) : List Event :=
  [.ie t false, .wr (t + p.lEnter + p.lSnap) lo]
    ++ (if count = 0 then [] else .rd (t + p.lEnter + p.lSnap + p.w) base :: bytesEvents p hi lo (firstRaise p t) base bytes)
    ++ [.ie (frameLeave p t count) true]

/-! ### The schedule -/

/-- One micro-operation of a trace with its issue cycle (R108). -/
abbrev TraceEntry := Nat × Instr

/-- The micro-operations of bit `j` with their issue cycles, its `SETHI` issuing at `s` (R160). -/
def bitSchedule (p : Params) (s : Nat) (j : BitIndex) : List TraceEntry :=
  [(s, .sethi), (s + p.w, .delay (delayPhase1 p)), (s + p.t1 - p.b, .testb (testedBit p j)), (s + p.t1, .cdrop),
    (s + p.t1 + p.w, .delay (delayPhase2 p)), (s + p.t1 + p.t2, .setlo),
    (s + p.t1 + p.t2 + p.w, .delay (delayPhase3 p j))]
    ++ (if j = 7 then [(s + p.period - p.overhead j, .next)]
        else
          match p.strategy with
          | .byteLoop => [(s + p.period - p.overhead j, .shift)]
          | .unrolled => [])

/-- The micro-operations of one byte, its first `SETHI` issuing at `s` (R109 `BYTE`, R193). -/
def byteSchedule (p : Params) (s : Nat) : List TraceEntry :=
  bitSchedule p s 0 ++ bitSchedule p (s + p.period) 1 ++ bitSchedule p (s + 2 * p.period) 2
    ++ bitSchedule p (s + 3 * p.period) 3 ++ bitSchedule p (s + 4 * p.period) 4 ++ bitSchedule p (s + 5 * p.period) 5
    ++ bitSchedule p (s + 6 * p.period) 6 ++ bitSchedule p (s + 7 * p.period) 7

/-- The micro-operations of `n` bytes (R193). -/
def bytesSchedule (p : Params) (s : Nat) : Nat → List TraceEntry
  | 0 => []
  | n + 1 => byteSchedule p s ++ bytesSchedule p (s + 8 * p.period) n

/-- `transmit(frame, ledCount)`: every micro-operation of a frame of `count` LEDs accepted at `t` (R109, R193). -/
def frameSchedule (p : Params) (t count : Nat) : List TraceEntry :=
  [(t, .aenter), (t + p.lEnter, .snap), (t + p.lEnter + p.lSnap, .setlo), (t + p.lEnter + p.lSnap + p.w, .first)]
    ++ bytesSchedule p (firstRaise p t) (3 * count)
    ++ [(frameLeave p t count, .aleave)]

/-- What a step issues, with its issue cycle: nothing when another agent's move lands, nothing while waiting or at the end
of an unrolled bit. -/
def State.issued (s : State) : List TraceEntry :=
  match s.dueMove with
  | some _ => []
  | none =>
    match s.issue with
    | .op i => [(s.cyc, i)]
    | .bitEnd => []
    | .waits => []
    | .malformed _ => []

end Sys2Proof.Machine
end

