-- ==== Sys2Proof/Machine/Run.lean ====
section
/-! DEFINITION. Several steps, and the micro-operation trace of a run (30_encoding.md R108). -/

namespace Sys2Proof.Machine

/-- `k` steps, stopping at the first fault or refusal. -/
def run : Nat → State → Result
  | 0, s => .next s
  | k + 1, s =>
    match step s with
    | .next t => run k t
    | .fault f => .fault f
    | .refused r => .refused r

/-- The instructions `k` steps issue, with their issue cycles (R108). -/
def trace : Nat → State → List TraceEntry
  | 0, _ => []
  | k + 1, s =>
    s.issued ++
      match step s with
      | .next t => trace k t
      | .fault _ => []
      | .refused _ => []

end Sys2Proof.Machine
end

