-- ==== Sys2Proof/Safety.lean ====
section
/-! DEFINITION. What counts as a safe run, in the terms the statements use: the premises of a frame
(43_frame_transmitter.md R190), and the invariant that every step keeps. -/

namespace Sys2Proof.Machine

/-- No other agent's move happens in the next `n` cycles. -/
def State.quietFor (s : State) (n : Nat) : Prop := ∀ m, s.agents.head? = some m → s.cyc + n ≤ m.cycle

/-- The host presents the command `i`, and it is the one to be accepted (44_commands.md R210). -/
def State.presents (s : State) (i : Instr) : Prop :=
  ∃ c rest, s.cmds = c :: rest ∧ c.since ≤ s.cyc ∧ decodeCommand s.cfg.toParams c.word = .ok i

/-- The pin is set up: what `INIT` leaves (44_commands.md R211). -/
structure PinReady (s : State) : Prop where
  inited : s.inited = true
  mask : s.maskC = s.cfg.mask
  port : s.portC = s.cfg.portId
  output : s.dir = true

/-- The premises of a frame (R190): at `IDLE`, after `INIT`, `SHOWRGB base, count` presented, its `3 * count` bytes owned
by the host and inside the address space, and no other agent's move until `BUSY` falls. -/
structure FramePremises (s : State) (base count : Nat) (bytes : List Byte) : Prop where
  idle : s.seq = .idle
  ready : PinReady s
  presented : s.presents (.showrgb base count)
  fits : base + 3 * count ≤ 2 ^ s.cfg.addrW
  length : bytes.length = 3 * count
  owned : ∀ i (h : i < bytes.length), s.mem.read (base + i) = some bytes[i]
  quiet : s.quietFor (frameCycles s.cfg.toParams count)

/-- The positions of a frame (10_state.md R30). -/
def Seq.inFrame : Seq → Bool
  | .idle => false
  | .i0 => false
  | .i1 => false
  | .a0 => false
  | .f0 => true
  | .f1 => true
  | .f2 => true
  | .f3 => true
  | .b1 => true
  | .b2 => true
  | .b3 => true
  | .b4 => true
  | .b5 => true
  | .b6 => true
  | .b7 => true
  | .b8 => true
  | .f4 => true

/-- The positions of a frame after `AENTER` (43_frame_transmitter.md R201). -/
def Seq.inAtomic (q : Seq) : Bool := q.inFrame && decide (q ≠ .f0)

/-- The positions of a frame after `SNAP`. -/
def Seq.snapped (q : Seq) : Bool := q.inAtomic && decide (q ≠ .f1)

/-- The positions of the bits of a byte. -/
def Seq.inBit (q : Seq) : Bool := q.snapped && decide (q ≠ .f2) && decide (q ≠ .f3) && decide (q ≠ .f4)

/-- What holds of the machine between any two steps. -/
structure Inv (s : State) : Prop where
  /-- Frame memory keeps its canonical form. -/
  memory : s.mem.wf
  /-- Frame memory lists addresses of the frame space only (20_memory.md R60). -/
  memorySpace : s.mem.inSpace (2 ^ s.cfg.addrW)
  /-- `PTR` has `ADDR_W` bits (10_state.md R26). -/
  ptr : s.ptr < 2 ^ s.cfg.addrW
  /-- `REM` has `COUNT_W + 2` bits (R27). -/
  rem : s.rem < 2 ^ (s.cfg.countW + 2)
  /-- The delay counter is zero whenever a micro-operation issues (R29). -/
  delay : s.dly = 0
  /-- After `INIT` the cached identity is the pin's and the pin is an output (44_commands.md R211). -/
  cached : s.inited = true → s.maskC = s.cfg.mask ∧ s.portC = s.cfg.portId ∧ s.dir = true
  /-- `DIROUT` precedes `CACHE`. -/
  output : s.seq = .i1 → s.dir = true
  /-- A frame runs only after `INIT` (R214). -/
  frame : s.seq.inFrame = true → s.inited = true
  /-- `IE = 0` inside the atomic region (R201). -/
  atomic : s.seq.inAtomic = true → s.ie = false
  /-- `HI` and `LO` of a frame differ in the pin's bit only (41_port_ops.md R144). -/
  snapshot : s.seq.snapped = true → s.hi = s.lo ||| s.cfg.mask ∧ s.lo &&& s.cfg.mask = 0
  /-- The other pins keep their snapshot value (20_memory.md R69). -/
  others : s.seq.snapped = true → s.port &&& ~~~s.cfg.mask = s.lo &&& ~~~s.cfg.mask
  /-- The port holds `HI` in phase 1 (42_bit_encoder.md R161). -/
  raised : s.seq = .b2 ∨ s.seq = .b3 ∨ s.seq = .b4 → s.port = s.hi
  /-- The port carries the bit in phase 2 (R164). -/
  data : s.seq = .b5 ∨ s.seq = .b6 → s.port = if s.tbit then s.hi else s.lo
  /-- The port holds `LO` in phase 3 and around the bits (R165, R202). -/
  low : s.seq = .f3 ∨ s.seq = .b1 ∨ s.seq = .b7 ∨ s.seq = .b8 ∨ s.seq = .f4 → s.port = s.lo
  /-- A frame ends only when every byte is loaded (R167, R168). -/
  ends : s.seq = .f4 → s.rem = 0
  /-- `PTR` never wraps while bytes remain (20_memory.md R73). -/
  noWrap : s.seq.inBit = true → s.ptr + s.rem ≤ 2 ^ s.cfg.addrW
  /-- No two events share a cycle, and they are in increasing cycle (R196). -/
  ordered : s.ev.Pairwise (fun a b => a.cycle < b.cycle)
  /-- Every event lies in the past. -/
  past : ∀ e ∈ s.ev, e.cycle < s.cyc

end Sys2Proof.Machine
end

