-- ==== Sys2Proof/Certificates/Slice0/Obligations.lean ====
section
/-! DEFINITION. The statements for the provers. Every statement ranges over every state, so over every configuration that
can be built (`State.cfg`), both strategies among them. -/

open Sys2Proof Sys2Proof.Machine

/-! ### Encodings -/

/-- 30_encoding.md R101, R102, R104: decoding an encoded well-formed instruction gives it back, for all twenty rows of the
table, every operand the encoding admits and every pair of widths. -/
def Obligations.DecodeOfEncodeIsTheInstruction : Prop :=
  ∀ (p : Params) (i : Instr), i.wf p = true → decode p (encode p i) = .ok i

/-- R101, R104: what the decoder gives is well formed, and its encoding is the bits it was read from, but for the two
commands and the reserved one whose `base` and `count` fields are ignored (R107). -/
def Obligations.DecodedInstructionsFitAndReencode : Prop :=
  ∀ (p : Params) (e : Encoded) (i : Instr), decode p e = .ok i →
    i.wf p = true ∧ (i ≠ .init → i ≠ .showargb → i ≠ .reservedCommand11 → encode p i = e)

/-- R101, R102, R107: the opcode alone decides the command; `base` and `count` are read for `SHOWRGB` and ignored for
`INIT` and `SHOWARGB`. -/
def Obligations.OpcodeSelectsTheCommand : Prop :=
  ∀ (p : Params) (base count : Nat), base < 2 ^ p.addrW → count < 2 ^ p.countW →
    decodeCommand p (0 + base * 4 + count * 2 ^ (p.addrW + 2)) = .ok .init ∧
    decodeCommand p (1 + base * 4 + count * 2 ^ (p.addrW + 2)) = .ok (.showrgb base count) ∧
    decodeCommand p (2 + base * 4 + count * 2 ^ (p.addrW + 2)) = .ok .showargb ∧
    decodeCommand p (3 + base * 4 + count * 2 ^ (p.addrW + 2)) = .ok .reservedCommand11

/-- Words written out from R101 (op in bits 1..0, base in 17..2, count in 31..18) and codes from R104. -/
def Obligations.WordsOfTheTableDecode : Prop :=
  decodeCommand Params.reference 0b00000000000000_0000000000000000_00 = .ok .init ∧
  decodeCommand Params.reference 0b00000000000001_0000000100000000_01 = .ok (.showrgb 0x0100 1) ∧
  decodeCommand Params.reference 0b00000000000101_0000000100000000_10 = .ok .showargb ∧
  decodeUop 0b0000 0 = .ok .nop ∧ decodeUop 0b0011 0 = .ok .aenter ∧ decodeUop 0b0110 0 = .ok .setlo ∧
  decodeUop 0b1000 5 = .ok (.delay 5) ∧ decodeUop 0b1001 7 = .ok (.testb 7) ∧ decodeUop 0b1011 0 = .ok .shift ∧
  decodeUop 0b1101 0 = .ok .next

/-- R216, R106: the reserved command is never accepted: in every state it is refused, by exec and by a step at `IDLE` to
which it is presented. -/
def Obligations.ReservedCommandIsRefused : Prop :=
  (∀ s : State, exec .reservedCommand11 s = .refused .reservedCommand) ∧
  (∀ s : State, s.seq = .idle → s.dueMove = none → s.presents .reservedCommand11 → step s = .refused .reservedCommand)

/-- R106, R104: no micro-operation has the code 14 or 15: every one has a code up to 13 and decodes from it, the two codes
decode to none, so the sequencer issues neither at any position; and the two rows of the table are refused (that they are
constructors of `Instr`: log 13). -/
def Obligations.ReservedCodesAreNeverIssuedAndRefused : Prop :=
  (∀ (p : Params) (u : MicroOp), u.instr.wf p = true →
    ∃ code operand, code ≤ 13 ∧ encode p u.instr = .uop code operand ∧ decodeMicroOp code operand = .ok u) ∧
  (∀ operand : Nat, decodeMicroOp 14 operand = .error .reservedCode ∧ decodeMicroOp 15 operand = .error .reservedCode) ∧
  (∀ (p : Params) (q : Seq) (j : BitIndex) (u : MicroOp), uopAt p q j = some u →
    u.instr ≠ .reservedUop14 ∧ u.instr ≠ .reservedUop15) ∧
  (∀ s : State, exec .reservedUop14 s = .refused (.reservedMicroOperation 14)) ∧
  (∀ s : State, exec .reservedUop15 s = .refused (.reservedMicroOperation 15))

/-! ### Build time -/

/-- 40_timing_and_delay.md R120: both divisions truncate; 0 MHz and more than 1000 MHz are a build error. -/
def Obligations.NanosecondsConvertWithTwoTruncations : Prop :=
  ∀ ns f : Nat,
    (f = 0 ∨ 1000 < f → ns2cyc ns f = .error .clockOutOfRange) ∧
    (0 < f → f ≤ 1000 → ns2cyc ns f = .ok (ns / (1000 / f)))

/-- R121: (a) a target shorter than a cycle gives 0 and fails validation in any phase; (b) the result can exceed the exact
quotient; (c) it is the exact floor when the clock divides 1000; (d) cycles may be given directly. -/
def Obligations.NanosecondCornerCases : Prop :=
  (∀ ns f n : Nat, ns2cyc ns f = .ok n → ns < 1000 / f →
    n = 0 ∧ ∀ a b, validate n a b = some .timingInfeasible ∧ validate a n b = some .timingInfeasible ∧
      validate a b n = some .timingInfeasible) ∧
  (ns2cyc 8000 16 = .ok 129 ∧ 8000 * 16 / 1000 = 128) ∧
  (∀ ns f : Nat, f ∣ 1000 → ns2cyc ns f = .ok (ns * f / 1000)) ∧
  (∀ a b c : Nat, (TimingSource.cycles a b c).resolve = .ok (a, b, c))

/-- R122: `VALIDATE` fails exactly when a phase is below its minimum 3, 2, 6, whatever the others are, and then nothing is
built. That the error named is `TimingInfeasible` also for parameters that break another constraint is the model's choice:
log 29. -/
def Obligations.TimingBelowAMinimumIsNotBuilt : Prop :=
  ∀ t1 t2 t3 : Nat,
    (t1 < 3 ∨ t2 < 2 ∨ t3 < 6 → validate t1 t2 t3 = some .timingInfeasible ∧
      ∀ p : Params, build (.cycles t1 t2 t3) p = .error .timingInfeasible) ∧
    (3 ≤ t1 → 2 ≤ t2 → 6 ≤ t3 → validate t1 t2 t3 = none)

/-- R126: validation suffices. Under the parameter constraints, parameters that pass `VALIDATE` have no negative delay
argument; so no build ends in `NegativeDelay` (for parameters that fail `VALIDATE` or break a constraint, that another error
is named first is the model's choice: log 29); and the reference latencies make the three thresholds tight. -/
def Obligations.ValidationKeepsDelaysNonNegative : Prop :=
  (∀ p : Params, p.w + p.b ≤ minT1 → p.w ≤ minT2 → p.w + p.adjBit ≤ minT3 → p.w + p.adjLast ≤ minT3 →
    validate p.t1 p.t2 p.t3 = none → 0 ≤ p.n1 ∧ 0 ≤ p.n2 ∧ 0 ≤ p.n3 ∧ 0 ≤ p.n3L) ∧
  (∀ (src : TimingSource) (p : Params), build src p ≠ .error .negativeDelay) ∧
  (∀ p : Params, p.w = 2 → p.b = 1 → p.adjLast = 4 →
    (p.t1 = 3 → p.n1 = 0) ∧ (p.t2 = 2 → p.n2 = 0) ∧ (p.t3 = 6 → p.n3L = 0))

/-- 30_encoding.md R105, 40_timing_and_delay.md R124: the operand of the micro-operation at each position that has one, in
the integers: no subtraction was clamped. -/
def Obligations.PositionOperandsAreTheUnclampedConstants : Prop :=
  ∀ (c : Cfg) (j : BitIndex),
    (∃ n : Nat, uopAt c.toParams .b2 j = some (.delay n) ∧ (n : Int) = (c.t1 : Int) - c.w - c.b) ∧
    (∃ n : Nat, uopAt c.toParams .b5 j = some (.delay n) ∧ (n : Int) = (c.t2 : Int) - c.w) ∧
    (j ≠ 7 → ∃ n : Nat, uopAt c.toParams .b7 j = some (.delay n) ∧ (n : Int) = (c.t3 : Int) - c.w - c.adjBit) ∧
    (j = 7 → ∃ n : Nat, uopAt c.toParams .b7 j = some (.delay n) ∧ (n : Int) = (c.t3 : Int) - c.w - c.adjLast) ∧
    (c.strategy = .unrolled → uopAt c.toParams .b3 j = some (.testb (7 - j.val))) ∧
    (c.strategy = .byteLoop → uopAt c.toParams .b3 j = some (.testb 7))

/-! ### Commands -/

/-- 44_commands.md R210: at `IDLE` each command is accepted: the word leaves the port, `SEQ` takes the command's first
position, in the same cycle; while `BUSY = 1` none is accepted and nothing changes. The acceptance being a step of its own
is the model's reading (log 7). -/
def Obligations.CommandsAreAcceptedOnlyAtIdle : Prop :=
  (∀ s : State, s.seq = .idle → exec .init s = .next { s with seq := .i0, cmds := s.cmds.tail }) ∧
  (∀ s : State, s.seq = .idle → exec .showargb s = .next { s with seq := .a0, cmds := s.cmds.tail }) ∧
  (∀ s : State, s.seq ≠ .idle → exec .init s = .next s ∧ exec .showargb s = .next s ∧
    ∀ base count, exec (.showrgb base count) s = .next s)

/-- R213, R214: `SHOWRGB` with operands that fit latches `base` and `3 * count`, unwrapped, and starts the frame; before
`INIT` it faults, whatever its operands. -/
def Obligations.ShowrgbLatchesItsOperandsAfterInit : Prop :=
  ∀ (s : State) (base count : Nat), s.seq = .idle →
    (s.inited = true → base < 2 ^ s.cfg.addrW → count < 2 ^ s.cfg.countW →
      exec (.showrgb base count) s =
        .next { s with ptr := base, rem := 3 * count, seq := .f0, cmds := s.cmds.tail }) ∧
    (s.inited = false → exec (.showrgb base count) s = .fault .showBeforeInit)

/-- R211, 70_reset_and_hazards.md R283: the whole of `INIT`, from a presented word to `IDLE`: the pin is an output, its
identity is cached, `L_DIR + L_CACHE` cycles pass, and nothing else changes. -/
def Obligations.InitSetsUpThePin : Prop :=
  ∀ s : State, s.seq = .idle → s.presents .init → s.quietFor (s.cfg.lDir + s.cfg.lCache) →
    run 3 s = .next { s with
      cmds := s.cmds.tail, dir := true, maskC := s.cfg.mask, portC := s.cfg.portId, inited := true,
      ev := s.ev ++ [.dir s.cyc], cyc := s.cyc + (s.cfg.lDir + s.cfg.lCache) }

/-- R212: a second `INIT` leaves every piece of state as it was: only the command port, the cycle counter and the event
list move. -/
def Obligations.RepeatedInitChangesNoState : Prop :=
  ∀ s : State, s.seq = .idle → PinReady s → s.presents .init → s.quietFor (s.cfg.lDir + s.cfg.lCache) →
    run 3 s = .next { s with
      cmds := s.cmds.tail, ev := s.ev ++ [.dir s.cyc], cyc := s.cyc + (s.cfg.lDir + s.cfg.lCache) }

/-- R215: the whole of `SHOWARGB`, before or after `INIT`: `L_NOP` cycles, no event, no state change. -/
def Obligations.ShowargbIsASilentNoOp : Prop :=
  ∀ s : State, s.seq = .idle → s.presents .showargb → s.quietFor s.cfg.lNop →
    run 2 s = .next { s with cmds := s.cmds.tail, cyc := s.cyc + s.cfg.lNop }

/-! ### Micro-operations: what each does, and nothing else -/

/-- R215: `NOP`. -/
def Obligations.NopOnlyTakesTime : Prop :=
  ∀ s : State, exec .nop s = .next { s with cyc := s.cyc + s.cfg.lNop, seq := .idle }

/-- 41_port_ops.md R141: `DIROUT` drives the line, with whatever bit `PORT` holds, and does not write `PORT`. -/
def Obligations.DiroutDrivesTheLine : Prop :=
  ∀ s : State, s.seq = .i0 →
    exec .dirout s = .next { s with dir := true, ev := s.ev ++ [.dir s.cyc], cyc := s.cyc + s.cfg.lDir, seq := .i1 } ∧
    ∀ t, exec .dirout s = .next t → t.line = some (decide (s.port &&& s.cfg.mask ≠ 0))

/-- R142: `CACHE`. -/
def Obligations.CacheCapturesThePinIdentity : Prop :=
  ∀ s : State, s.seq = .i1 →
    exec .cache s = .next { s with
      maskC := s.cfg.mask, portC := s.cfg.portId, inited := true, cyc := s.cyc + s.cfg.lCache, seq := .idle }

/-- R143: `SNAP`, on the register `PORT_C` names. -/
def Obligations.SnapDerivesHiAndLo : Prop :=
  ∀ s : State, s.seq = .f1 → s.portC = s.cfg.portId →
    exec .snap s = .next { s with
      hi := s.port ||| s.maskC, lo := s.port &&& ~~~s.maskC, cyc := s.cyc + s.cfg.lSnap, seq := .f2 }

/-- R144: the laws of `HI` and `LO` after a `SNAP` with the pin's mask cached. -/
def Obligations.HiAndLoDifferInThePinOnly : Prop :=
  ∀ s t : State, exec .snap s = .next t → s.maskC = s.cfg.mask →
    t.hi &&& s.cfg.mask = s.cfg.mask ∧ t.lo &&& s.cfg.mask = 0 ∧
    t.hi &&& ~~~s.cfg.mask = s.port &&& ~~~s.cfg.mask ∧ t.lo &&& ~~~s.cfg.mask = s.port &&& ~~~s.cfg.mask ∧
    t.hi = t.lo ||| s.cfg.mask ∧ t.hi ≠ t.lo ∧ t.hi ^^^ t.lo = s.cfg.mask

/-- R145: `SETLO`, at `F2` and at `B6`: the write happens even when the port already holds `LO`. -/
def Obligations.SetloWritesLo : Prop :=
  ∀ s : State, s.portC = s.cfg.portId →
    (s.seq = .f2 → exec .setlo s =
      .next { s with port := s.lo, ev := s.ev ++ [.wr s.cyc s.lo], cyc := s.cyc + s.cfg.w, seq := .f3 }) ∧
    (s.seq = .b6 → exec .setlo s =
      .next { s with port := s.lo, ev := s.ev ++ [.wr s.cyc s.lo], cyc := s.cyc + s.cfg.w, seq := .b7 })

/-- R146: `SETHI`. -/
def Obligations.SethiWritesHi : Prop :=
  ∀ s : State, s.seq = .b1 → s.portC = s.cfg.portId →
    exec .sethi s =
      .next { s with port := s.hi, ev := s.ev ++ [.wr s.cyc s.hi], cyc := s.cyc + s.cfg.w, seq := .b2 }

/-- The model's choice (log 12): a port operation whose `PORT_C` does not name the one port register is refused. -/
def Obligations.PortAccessNeedsTheCachedIdentity : Prop :=
  ∀ s : State, s.portC ≠ s.cfg.portId →
    exec .snap s = .refused .portNotNamed ∧ exec .setlo s = .refused .portNotNamed ∧
    exec .sethi s = .refused .portNotNamed ∧ (s.tbit = false → exec .cdrop s = .refused .portNotNamed)

/-- 40_timing_and_delay.md R127, R128: `DELAY N` takes exactly `N` cycles and changes nothing else; `DELAY 0` changes
nothing but `SEQ`. The counter `DLY` is zero when a micro-operation issues (10_state.md R29). -/
def Obligations.DelayTakesExactlyNCycles : Prop :=
  ∀ (s : State) (n : Nat), s.dly = 0 →
    exec (.delay n) s = .next { s with cyc := s.cyc + n, seq := nextSeq s.seq } ∧
    exec (.delay 0) s = .next { s with seq := nextSeq s.seq }

/-- 42_bit_encoder.md R162: `TESTB k`, and the `k` of each position. -/
def Obligations.TestbReadsOneBit : Prop :=
  (∀ (s : State) (k : Nat), s.seq = .b3 → k < 8 →
    exec (.testb k) s = .next { s with tbit := s.cur.getLsbD k, cyc := s.cyc + s.cfg.b, seq := .b4 }) ∧
  (∀ (p : Params) (j : BitIndex),
    uopAt p .b3 j = some (.testb (if p.strategy = .unrolled then 7 - j.val else 7)))

/-- R163: `CDROP` writes `LO` when the bit is 0 and writes nothing when it is 1; the same cycles either way. -/
def Obligations.CdropDropsOnlyAZero : Prop :=
  ∀ s : State, s.seq = .b4 →
    (s.tbit = false → s.portC = s.cfg.portId → exec .cdrop s =
      .next { s with port := s.lo, ev := s.ev ++ [.wr s.cyc s.lo], cyc := s.cyc + s.cfg.w, seq := .b5 }) ∧
    (s.tbit = true → exec .cdrop s = .next { s with cyc := s.cyc + s.cfg.w, seq := .b5 })

/-- R166: `SHIFT` moves `CUR` left by one and counts the bit; with the unrolled strategy the same position only counts the
bit, in zero cycles. -/
def Obligations.ShiftAdvancesTheByte : Prop :=
  ∀ s : State, s.seq = .b8 → s.j ≠ 7 →
    exec .shift s = .next { s with cur := s.cur <<< 1, j := s.j + 1, cyc := s.cyc + s.cfg.adjBit, seq := .b1 } ∧
    (s.cfg.strategy = .unrolled → s.dueMove = none → step s = .next { s with j := s.j + 1, seq := .b1 })

/-- R167, R168: the loads of `NEXT` and `FIRST`: the same but for their latency; nothing is read when no byte is left; a
byte the host does not own raises `FrameOutOfBounds`. -/
def Obligations.FirstAndNextLoadOneByte : Prop :=
  ∀ s : State,
    (s.rem ≠ 0 → s.mem.read s.ptr = none →
      exec .first s = .fault .frameOutOfBounds ∧ exec .next s = .fault .frameOutOfBounds) ∧
    (s.rem = 0 →
      exec .first s = .next { s with seq := .f4, cyc := s.cyc + s.cfg.lLoad } ∧
      exec .next s = .next { s with seq := .f4, cyc := s.cyc + s.cfg.adjLast }) ∧
    (∀ v : Byte, s.rem ≠ 0 → s.ptr + s.rem ≤ 2 ^ s.cfg.addrW → s.mem.read s.ptr = some v →
      exec .first s = .next { s with
        cur := v, ptr := (s.ptr + 1) % 2 ^ s.cfg.addrW, rem := s.rem - 1, j := 0, seq := .b1,
        ev := s.ev ++ [.rd s.cyc s.ptr], cyc := s.cyc + s.cfg.lLoad } ∧
      exec .next s = .next { s with
        cur := v, ptr := (s.ptr + 1) % 2 ^ s.cfg.addrW, rem := s.rem - 1, j := 0, seq := .b1,
        ev := s.ev ++ [.rd s.cyc s.ptr], cyc := s.cyc + s.cfg.adjLast })

/-- 20_memory.md R63, R73: a load of a byte the host does not own faults; so does the load of a frame that would wrap the
address space (that it is the first load: the model's choice, log 6). -/
def Obligations.LoadsOutsideTheFrameFault : Prop :=
  ∀ s : State, s.rem ≠ 0 → s.mem.read s.ptr = none ∨ 2 ^ s.cfg.addrW < s.ptr + s.rem →
    exec .first s = .fault .frameOutOfBounds ∧ exec .next s = .fault .frameOutOfBounds

/-- 43_frame_transmitter.md R191, R192: the atomic bracket: `IE` is written 0 and 1 whatever it was, and nothing saves it. -/
def Obligations.AtomicBracketWritesIe : Prop :=
  ∀ s : State,
    (s.seq = .f0 → exec .aenter s =
      .next { s with ie := false, ev := s.ev ++ [.ie s.cyc false], cyc := s.cyc + s.cfg.lEnter, seq := .f1 }) ∧
    exec .aleave s =
      .next { s with ie := true, ev := s.ev ++ [.ie s.cyc true], cyc := s.cyc + s.cfg.lLeave, seq := .idle }

/-! ### The whole machine -/

/-- 10_state.md R30: the position names the micro-operation that issues next; there are seventeen groups of positions, and
nothing issues at `IDLE` and at `(B8, j)`, `j < 7`, unrolled. -/
def Obligations.EachPositionNamesItsMicroOperation : Prop :=
  ∀ (p : Params) (j : BitIndex),
    uopAt p .idle j = none ∧ uopAt p .i0 j = some .dirout ∧ uopAt p .i1 j = some .cache ∧ uopAt p .a0 j = some .nop ∧
    uopAt p .f0 j = some .aenter ∧ uopAt p .f1 j = some .snap ∧ uopAt p .f2 j = some .setlo ∧
    uopAt p .f3 j = some .first ∧ uopAt p .b1 j = some .sethi ∧ (∃ n, uopAt p .b2 j = some (.delay n)) ∧
    (∃ k, k < 8 ∧ uopAt p .b3 j = some (.testb k)) ∧ uopAt p .b4 j = some .cdrop ∧
    (∃ n, uopAt p .b5 j = some (.delay n)) ∧ uopAt p .b6 j = some .setlo ∧ (∃ n, uopAt p .b7 j = some (.delay n)) ∧
    (j = 7 → uopAt p .b8 j = some .next) ∧ (j ≠ 7 → p.strategy = .byteLoop → uopAt p .b8 j = some .shift) ∧
    (j ≠ 7 → p.strategy = .unrolled → uopAt p .b8 j = none) ∧ uopAt p .f4 j = some .aleave

/-- A step runs the instruction: the micro-operation of the position (R30), or the presented command (R210); at the end of
an unrolled bit (log 22) and while waiting (log 8) it does only what is said here; a number that is no command word is
refused (log 16). -/
def Obligations.StepRunsTheIssuedInstruction : Prop :=
  (∀ (s : State) (u : MicroOp), s.dueMove = none → s.seq ≠ .idle → uopAt s.cfg.toParams s.seq s.j = some u →
    step s = exec u.instr s) ∧
  (∀ (s : State) (i : Instr), s.dueMove = none → s.seq = .idle → s.presents i → step s = exec i s) ∧
  (∀ s : State, s.dueMove = none → s.seq ≠ .idle → uopAt s.cfg.toParams s.seq s.j = none → step s = .next s.bitEnd) ∧
  (∀ s : State, s.dueMove = none → s.seq = .idle → (∀ c, s.cmds.head? = some c → s.cyc < c.since) →
    step s = .next { s with cyc := s.cyc + 1 }) ∧
  (∀ (s : State) (c : Presented) (rest : List Presented) (e : DecodeError), s.dueMove = none → s.seq = .idle →
    s.cmds = c :: rest → c.since ≤ s.cyc → decodeCommand s.cfg.toParams c.word = .error e →
    step s = .refused (.malformedCommand e))

/-- 10_state.md R31, R28: the positions advance in table order, with the three choices of `FIRST`, `(B8, j)` and `NEXT`;
`IDLE` is left only by accepting a command; no other agent but reset moves the sequencer. -/
def Obligations.SequencerAdvancesByTheTable : Prop :=
  (∀ s t : State, s.dueMove = none → step s = .next t →
    (s.seq = .i0 → t.seq = .i1) ∧ (s.seq = .i1 → t.seq = .idle) ∧ (s.seq = .a0 → t.seq = .idle) ∧
    (s.seq = .f0 → t.seq = .f1) ∧ (s.seq = .f1 → t.seq = .f2) ∧ (s.seq = .f2 → t.seq = .f3) ∧
    (s.seq = .f3 → (s.rem = 0 → t.seq = .f4) ∧ (s.rem ≠ 0 → t.seq = .b1 ∧ t.j = 0)) ∧
    (s.seq = .b1 → t.seq = .b2 ∧ t.j = s.j) ∧ (s.seq = .b2 → t.seq = .b3 ∧ t.j = s.j) ∧
    (s.seq = .b3 → t.seq = .b4 ∧ t.j = s.j) ∧ (s.seq = .b4 → t.seq = .b5 ∧ t.j = s.j) ∧
    (s.seq = .b5 → t.seq = .b6 ∧ t.j = s.j) ∧ (s.seq = .b6 → t.seq = .b7 ∧ t.j = s.j) ∧
    (s.seq = .b7 → t.seq = .b8 ∧ t.j = s.j) ∧
    (s.seq = .b8 → s.j ≠ 7 → t.seq = .b1 ∧ t.j.val = s.j.val + 1) ∧
    (s.seq = .b8 → s.j = 7 → (s.rem = 0 → t.seq = .f4 ∧ t.j = 7) ∧ (s.rem ≠ 0 → t.seq = .b1 ∧ t.j = 0)) ∧
    (s.seq = .f4 → t.seq = .idle) ∧
    (s.seq = .idle → t.seq = .idle ∧ t.cmds = s.cmds ∨
      (t.seq = .i0 ∨ t.seq = .f0 ∨ t.seq = .a0) ∧ ∃ c, s.cmds = c :: t.cmds)) ∧
  (∀ (s t : State) (m : AgentMove) (rest : List AgentMove), s.dueMove = some (m, rest) →
    (∀ b v, m.act ≠ .reset b v) → step s = .next t → t.seq = s.seq ∧ t.j = s.j)

/-- 44_commands.md R210: a presented command waits while `BUSY = 1` and is not lost. That it survives a reset too is the
model's choice: log 19. -/
def Obligations.BusyEngineKeepsThePresentedCommands : Prop :=
  ∀ s t : State, s.seq ≠ .idle → step s = .next t → t.cmds = s.cmds

/-- 20_memory.md R64, 10_state.md R37: no instruction writes frame memory or the configuration. -/
def Obligations.NoInstructionWritesFrameMemory : Prop :=
  ∀ (i : Instr) (s t : State), exec i s = .next t → (∀ a : Nat, t.mem.read a = s.mem.read a) ∧ t.cfg = s.cfg

/-- 10_state.md R21 to R36: each element of state has its own writers; no other instruction changes it. -/
def Obligations.EachRegisterHasOnlyItsWriters : Prop :=
  ∀ (i : Instr) (s t : State), exec i s = .next t →
    (i ≠ .snap → t.hi = s.hi ∧ t.lo = s.lo) ∧
    (i ≠ .first → i ≠ .next → i ≠ .shift → t.cur = s.cur ∧ t.j = s.j) ∧
    (i ≠ .cache → t.maskC = s.maskC ∧ t.portC = s.portC ∧ t.inited = s.inited) ∧
    ((∀ base count, i ≠ .showrgb base count) → i ≠ .first → i ≠ .next → t.ptr = s.ptr ∧ t.rem = s.rem) ∧
    ((∀ k, i ≠ .testb k) → t.tbit = s.tbit) ∧
    (i ≠ .aenter → i ≠ .aleave → t.ie = s.ie) ∧
    (i ≠ .dirout → t.dir = s.dir) ∧
    (i ≠ .setlo → i ≠ .sethi → i ≠ .cdrop → t.port = s.port) ∧
    ((∀ n, i ≠ .delay n) → t.dly = s.dly) ∧
    (i ≠ .init → i ≠ .showargb → (∀ base count, i ≠ .showrgb base count) → t.cmds = s.cmds) ∧
    t.agents = s.agents ∧ t.mem = s.mem ∧ t.cfg = s.cfg

/-- 41_port_ops.md R147: the only values ever written to the port are `HI` and `LO`, by `SETHI`, `SETLO` and a dropping
`CDROP`; and an instruction that does not write the port does not change it. -/
def Obligations.PortWritesAreHiOrLo : Prop :=
  ∀ (i : Instr) (s t : State), exec i s = .next t →
    (∀ c v, t.ev = s.ev ++ [.wr c v] →
      t.port = v ∧ (i = .sethi ∧ v = s.hi ∨ (i = .setlo ∨ i = .cdrop ∧ s.tbit = false) ∧ v = s.lo)) ∧
    ((∀ c v, t.ev ≠ s.ev ++ [.wr c v]) → t.port = s.port)

/-- 00_scope.md R12, 10_state.md R39: an instruction appends at most one event, stamped with its issue cycle. -/
def Obligations.EventsCarryTheIssueCycle : Prop :=
  ∀ (i : Instr) (s t : State), exec i s = .next t → t.ev = s.ev ∨ ∃ e, t.ev = s.ev ++ [e] ∧ e.cycle = s.cyc

/-- 70_reset_and_hazards.md R282: the latency of every micro-operation: a function of the configuration alone. -/
def Obligations.EveryMicroOperationTakesItsLatency : Prop :=
  ∀ s t : State,
    (exec .nop s = .next t → t.cyc = s.cyc + s.cfg.lNop) ∧ (exec .dirout s = .next t → t.cyc = s.cyc + s.cfg.lDir) ∧
    (exec .cache s = .next t → t.cyc = s.cyc + s.cfg.lCache) ∧
    (exec .aenter s = .next t → t.cyc = s.cyc + s.cfg.lEnter) ∧
    (exec .snap s = .next t → t.cyc = s.cyc + s.cfg.lSnap) ∧ (exec .setlo s = .next t → t.cyc = s.cyc + s.cfg.w) ∧
    (exec .sethi s = .next t → t.cyc = s.cyc + s.cfg.w) ∧ (exec .cdrop s = .next t → t.cyc = s.cyc + s.cfg.w) ∧
    (∀ k, exec (.testb k) s = .next t → t.cyc = s.cyc + s.cfg.b) ∧
    (∀ n, exec (.delay n) s = .next t → t.cyc = s.cyc + n) ∧
    (exec .shift s = .next t → t.cyc = s.cyc + s.cfg.adjBit) ∧
    (exec .first s = .next t → t.cyc = s.cyc + s.cfg.lLoad) ∧
    (exec .next s = .next t → t.cyc = s.cyc + s.cfg.adjLast) ∧
    (exec .aleave s = .next t → t.cyc = s.cyc + s.cfg.lLeave)

/-- 70_reset_and_hazards.md R272, 60_exceptions.md R233: a write of `PORT` or `IE` by another agent takes effect at `IDLE`
and breaks the run while `BUSY = 1`; a change of frame memory while `BUSY = 1`, or at `IDLE` at an address outside the frame
space, is refused (the model's choice, log 11). Which moves a step finds due is the model's choice: log 10. -/
def Obligations.OtherAgentsMayActOnlyAtIdle : Prop :=
  ∀ (s : State) (m : AgentMove) (rest : List AgentMove), s.agents = m :: rest → m.cycle < s.cyc + s.window →
    (∀ v, m.act = .writePort v →
      (s.seq = .idle → step s = .next { s with port := v, agents := rest }) ∧
      (s.seq ≠ .idle → step s = .fault .portWrittenDuringFrame)) ∧
    (∀ b, m.act = .writeIe b →
      (s.seq = .idle → step s = .next { s with ie := b, agents := rest }) ∧
      (s.seq ≠ .idle → step s = .fault .ieWrittenDuringFrame)) ∧
    (∀ a v, m.act = .writeMem a v →
      (s.seq = .idle → a < 2 ^ s.cfg.addrW → ∃ t, step s = .next t ∧ t.mem.read a = some v ∧
        (∀ b, b ≠ a → t.mem.read b = s.mem.read b) ∧ t = { s with mem := t.mem, agents := rest }) ∧
      (s.seq = .idle → 2 ^ s.cfg.addrW ≤ a → step s = .refused .noSuchAddress) ∧
      (s.seq ≠ .idle → step s = .refused .memoryMoveWhileBusy)) ∧
    (∀ a, m.act = .disown a →
      (s.seq = .idle → a < 2 ^ s.cfg.addrW → ∃ t, step s = .next t ∧ t.mem.read a = none ∧
        (∀ b, b ≠ a → t.mem.read b = s.mem.read b) ∧ t = { s with mem := t.mem, agents := rest }) ∧
      (s.seq = .idle → 2 ^ s.cfg.addrW ≤ a → step s = .refused .noSuchAddress) ∧
      (s.seq ≠ .idle → step s = .refused .memoryMoveWhileBusy))

/-- R272: the write need not fall on an issue cycle: anywhere in the cycles a micro-operation occupies it breaks the run
(log 10), and a change of frame memory there is refused (log 11). -/
def Obligations.WritesInsideAMicroOperationBreakTheRun : Prop :=
  ∀ (s : State) (m : AgentMove) (rest : List AgentMove) (u : MicroOp), s.agents = m :: rest → s.seq ≠ .idle →
    uopAt s.cfg.toParams s.seq s.j = some u → m.cycle < s.cyc + latency s.cfg.toParams u.instr →
    (∀ v, m.act = .writePort v → step s = .fault .portWrittenDuringFrame) ∧
    (∀ b, m.act = .writeIe b → step s = .fault .ieWrittenDuringFrame) ∧
    (∀ a v, m.act = .writeMem a v → step s = .refused .memoryMoveWhileBusy) ∧
    (∀ a, m.act = .disown a → step s = .refused .memoryMoveWhileBusy)

/-- R260: reset, at any cycle, inside a micro-operation too, in any position, puts the machine to its reset state; the
engine waits at `IDLE`. That the reset stands in the list of moves is the model's choice (log 10), and so is what it keeps:
frame memory, configuration, the presented words and the moves after it (log 19). -/
def Obligations.ResetPutsEveryElementToItsValue : Prop :=
  ∀ (s : State) (m : AgentMove) (rest : List AgentMove) (b : Bool) (v : Byte),
    s.agents = m :: rest → m.cycle < s.cyc + s.window → m.act = .reset b v →
    ∃ t, step s = .next t ∧ t.seq = .idle ∧ t.busy = false ∧ t.inited = false ∧ t.dir = false ∧ t.dly = 0 ∧
      t.ie = b ∧ t.port = v ∧ t.cyc = 0 ∧ t.ev = [] ∧ t.mem = s.mem ∧ t.cfg = s.cfg ∧ t.cmds = s.cmds ∧ t.agents = rest

/-- 60_exceptions.md R243, 10_state.md R44: the state after reset, for every configuration and every value of the free
inputs: at `IDLE`, `IE = IE_RESET`. -/
def Obligations.ResetStateIsIdle : Prop :=
  ∀ (c : Cfg) (b : Bool) (v : Byte) (m : Memory),
    (State.resetWith c b v m).seq = .idle ∧ (State.resetWith c b v m).busy = false ∧
    (State.resetWith c b v m).inited = false ∧ (State.resetWith c b v m).dir = false ∧
    (State.resetWith c b v m).dly = 0 ∧ (State.resetWith c b v m).ie = b ∧ (State.resetWith c b v m).port = v ∧
    (State.resetWith c b v m).mem = m ∧ (State.resetWith c b v m).cyc = 0 ∧ (State.resetWith c b v m).ev = []

/-! ### The invariant -/

/-- The invariant holds after reset, for every configuration, every value of the free inputs and every frame memory in
canonical form inside the frame space; so it holds of `State.reset`. -/
def Obligations.ResetMeetsTheInvariant : Prop :=
  (∀ (c : Cfg) (b : Bool) (v : Byte) (m : Memory), m.wf → m.inSpace (2 ^ c.addrW) →
    Inv (State.resetWith c b v m)) ∧ Inv State.reset

/-- Every step keeps the invariant: the memory's canonical form, the register widths, the atomic region (R201), the
snapshot laws (R144), what the port holds in each phase (R161, R164, R165), the other pins' bits (R69), the absence of wrap
(R73), and events in strictly increasing cycle (R196). -/
def Obligations.EveryStepKeepsTheInvariant : Prop := ∀ s t : State, Inv s → step s = .next t → Inv t

/-! ### Bits -/

/-- 30_encoding.md R90: the symbol of a bit: high for `T1` cycles, the bit for `T2`, low for `T3`; `P` cycles for both. -/
def Obligations.SymbolCarriesTheBitInPhaseTwo : Prop :=
  ∀ (p : Params) (b : Bool),
    symbol p b = [(true, p.t1 + b.toNat * p.t2), (false, (1 - b.toNat) * p.t2 + p.t3)] ∧
    (expand (symbol p b)).length = p.t1 + p.t2 + p.t3 ∧
    (∀ i, i < p.t1 → (expand (symbol p b))[i]? = some true) ∧
    (∀ i, p.t1 ≤ i → i < p.t1 + p.t2 → (expand (symbol p b))[i]? = some b) ∧
    (∀ i, p.t1 + p.t2 ≤ i → i < p.t1 + p.t2 + p.t3 → (expand (symbol p b))[i]? = some false)

/-- 42_bit_encoder.md R160, R169, R170: the eight positions of one bit take exactly `P` cycles, whichever the bit and the
strategy; the micro-operations issue at the cycles of R160 and the port writes are those of R170; then the next bit, the
next byte or the end of the frame. -/
def Obligations.OneBitTakesThePeriod : Prop :=
  ∀ s : State, s.seq = .b1 → s.portC = s.cfg.portId → s.quietFor (s.cfg.period + 1) →
    (s.j ≠ 7 → ∃ t, run 8 s = .next t ∧ t.seq = .b1 ∧ t.j.val = s.j.val + 1 ∧ t.cyc = s.cyc + s.cfg.period ∧
      t.ev = s.ev ++ bitEvents s.cfg.toParams s.hi s.lo s.cyc (s.cur.getLsbD (testedBit s.cfg.toParams s.j)) ∧
      trace 8 s = bitSchedule s.cfg.toParams s.cyc s.j ∧
      (s.cfg.strategy = .unrolled → t.cur = s.cur) ∧ (s.cfg.strategy = .byteLoop → t.cur = s.cur <<< 1) ∧
      t.port = s.lo ∧ t.hi = s.hi ∧ t.lo = s.lo ∧ t.ptr = s.ptr ∧ t.rem = s.rem ∧ t.mem = s.mem) ∧
    (s.j = 7 → s.rem = 0 → ∃ t, run 8 s = .next t ∧ t.seq = .f4 ∧ t.cyc = s.cyc + s.cfg.period ∧
      t.ev = s.ev ++ bitEvents s.cfg.toParams s.hi s.lo s.cyc (s.cur.getLsbD (testedBit s.cfg.toParams s.j)) ∧
      trace 8 s = bitSchedule s.cfg.toParams s.cyc s.j ∧ t.port = s.lo) ∧
    (∀ v, s.j = 7 → s.rem ≠ 0 → s.ptr + s.rem ≤ 2 ^ s.cfg.addrW → s.mem.read s.ptr = some v →
      ∃ t, run 8 s = .next t ∧ t.seq = .b1 ∧ t.j = 0 ∧ t.cur = v ∧ t.cyc = s.cyc + s.cfg.period ∧
      t.ev = s.ev ++ bitEvents s.cfg.toParams s.hi s.lo s.cyc (s.cur.getLsbD (testedBit s.cfg.toParams s.j))
        ++ [.rd (s.cyc + s.cfg.period - s.cfg.adjLast) s.ptr] ∧
      trace 8 s = bitSchedule s.cfg.toParams s.cyc s.j ∧ t.port = s.lo)

/-- 10_state.md R36, 41_port_ops.md R144: in a state of the invariant, a `SETHI` of a frame makes the line 1 and a `SETLO`
after the snapshot makes it 0; while the pin is no output the line has no value. -/
def Obligations.RaiseAndSettleSetTheLine : Prop :=
  (∀ s t : State, Inv s → s.seq = .b1 → exec .sethi s = .next t → t.line = some true) ∧
  (∀ s t : State, Inv s → s.seq = .f2 ∨ s.seq = .b6 → exec .setlo s = .next t → t.line = some false) ∧
  (∀ s : State, s.dir = false → s.line = none)

/-! ### Frames -/

/-- 43_frame_transmitter.md R195: the empty frame: its five micro-operations, three events, no read, no raise, and the
port left low. -/
def Obligations.EmptyFrameOnlyDrivesTheLineLow : Prop :=
  ∀ (s : State) (base : Nat), s.seq = .idle → PinReady s → s.presents (.showrgb base 0) →
    s.quietFor (s.cfg.lEnter + s.cfg.lSnap + s.cfg.w + s.cfg.lLoad + s.cfg.lLeave) →
    run 6 s = .next { s with
      cmds := s.cmds.tail, ptr := base, rem := 0, hi := s.port ||| s.cfg.mask, lo := s.port &&& ~~~s.cfg.mask,
      port := s.port &&& ~~~s.cfg.mask, ie := true,
      ev := s.ev ++ [.ie s.cyc false, .wr (s.cyc + s.cfg.lEnter + s.cfg.lSnap) (s.port &&& ~~~s.cfg.mask),
        .ie (s.cyc + s.cfg.lEnter + s.cfg.lSnap + s.cfg.w + s.cfg.lLoad) true],
      cyc := s.cyc + (s.cfg.lEnter + s.cfg.lSnap + s.cfg.w + s.cfg.lLoad + s.cfg.lLeave) } ∧
    trace 6 s = [(s.cyc, .showrgb base 0), (s.cyc, .aenter), (s.cyc + s.cfg.lEnter, .snap),
      (s.cyc + s.cfg.lEnter + s.cfg.lSnap, .setlo), (s.cyc + s.cfg.lEnter + s.cfg.lSnap + s.cfg.w, .first),
      (s.cyc + s.cfg.lEnter + s.cfg.lSnap + s.cfg.w + s.cfg.lLoad, .aleave)]

/-- R196, R197, R202: a frame runs to completion: its events are exactly the closed form, in strictly increasing cycle,
`1 + 2 * N + Z` of them port writes (`N = 24 * count` bits, `Z` of them 0); it takes exactly
`24 * count * P + L_ENTER + L_SNAP + W + L_LOAD + L_LEAVE` cycles whatever the data, and it leaves the state of R202. -/
def Obligations.FrameRunsToItsClosedForm : Prop :=
  ∀ (s : State) (base count : Nat) (bytes : List Byte), FramePremises s base count bytes →
    (frameEvents s.cfg.toParams (s.port ||| s.cfg.mask) (s.port &&& ~~~s.cfg.mask) s.cyc base count bytes).Pairwise
      (fun a b => a.cycle < b.cycle) ∧
    (frameEvents s.cfg.toParams (s.port ||| s.cfg.mask) (s.port &&& ~~~s.cfg.mask) s.cyc base count bytes).countP Event.isWr
      = 1 + 2 * (24 * count) + (frameBits bytes).countP (fun b => !b) ∧
    ∃ k t, run k s = .next t ∧ t.seq = .idle ∧ t.cyc = s.cyc + frameCycles s.cfg.toParams count ∧
      t.ev = s.ev ++ frameEvents s.cfg.toParams (s.port ||| s.cfg.mask) (s.port &&& ~~~s.cfg.mask) s.cyc base count bytes ∧
      t.port = s.port &&& ~~~s.cfg.mask ∧ t.line = some false ∧ t.ie = true ∧ t.rem = 0 ∧
      t.ptr = (base + 3 * count) % 2 ^ s.cfg.addrW ∧ (count ≠ 0 → t.j = 7) ∧ (count = 0 → t.j = s.j) ∧
      t.hi = s.port ||| s.cfg.mask ∧ t.lo = s.port &&& ~~~s.cfg.mask ∧
      t.maskC = s.maskC ∧ t.portC = s.portC ∧ t.dir = s.dir ∧ t.inited = s.inited ∧
      t.mem = s.mem ∧ t.cfg = s.cfg ∧ t.agents = s.agents ∧ t.cmds = s.cmds.tail

/-- R193, 42_bit_encoder.md R160: the micro-operations a frame issues are exactly the schedule, each at the cycle of its
place in it. -/
def Obligations.FrameIssuesExactlyItsSchedule : Prop :=
  ∀ (s : State) (base count : Nat) (bytes : List Byte), FramePremises s base count bytes →
    ∃ k t, run k s = .next t ∧ t.seq = .idle ∧ t.cmds = s.cmds.tail ∧
      trace k s = (s.cyc, .showrgb base count) :: frameSchedule s.cfg.toParams s.cyc count

/-- R199, 30_encoding.md R92: the pulse trace of a frame is the symbols of its bits, back to back, most significant bit
first; the line is low from the prologue's write to the first raise and from the last bit on. From acceptance to the
prologue's write it is what `PORT` gave it, which R14 to the letter says otherwise: log 18. -/
def Obligations.PulseTraceIsTheSymbolsOfTheBits : Prop :=
  ∀ (s : State) (base count : Nat) (bytes : List Byte), FramePremises s base count bytes →
    ∃ k t gained, run k s = .next t ∧ t.seq = .idle ∧ t.cyc = s.cyc + frameCycles s.cfg.toParams count ∧
      t.dir = true ∧ t.ev = s.ev ++ gained ∧
      pulseTrace s.cfg.mask s.dir gained (firstRaise s.cfg.toParams s.cyc) (24 * count * s.cfg.period)
        = onLine (frameSymbols s.cfg.toParams bytes) ∧
      (∀ c, s.cyc + s.cfg.lEnter + s.cfg.lSnap ≤ c → c < firstRaise s.cfg.toParams s.cyc →
        lineAt s.cfg.mask s.dir gained c = some false) ∧
      (∀ c, firstRaise s.cfg.toParams s.cyc + 24 * count * s.cfg.period ≤ c →
        lineAt s.cfg.mask s.dir gained c = some false) ∧
      (∀ c, s.cyc ≤ c → c < s.cyc + s.cfg.lEnter + s.cfg.lSnap →
        portLineAt s.cfg.mask s.dir s.port gained c = some (decide (s.port &&& s.cfg.mask ≠ 0)))

/-- 20_memory.md R62, 43_frame_transmitter.md R206: a frame reads each of its bytes exactly once, in increasing address, and
reads nothing else; and it makes `1 + 2 * N + Z` port writes, `Z` the number of its zero bits (R196). -/
def Obligations.FrameReadsEachByteOnceInOrder : Prop :=
  ∀ (s : State) (base count : Nat) (bytes : List Byte), FramePremises s base count bytes →
    ∃ k t gained, run k s = .next t ∧ t.seq = .idle ∧ t.cmds = s.cmds.tail ∧ t.ev = s.ev ++ gained ∧
      gained.filterMap Event.readAddr = (List.range (3 * count)).map (fun i => base + i) ∧
      gained.countP Event.isWr = 1 + 2 * (24 * count) + (frameBits bytes).countP (fun b => !b)

/-- R201, 20_memory.md R69: throughout a frame the other pins of the register keep their value, and `IE = 0` from the end
of `AENTER`'s issue to `ALEAVE`'s; the machine stays busy until the end. -/
def Obligations.FrameKeepsOtherPinsAndInterruptsOff : Prop :=
  ∀ (s : State) (base count : Nat) (bytes : List Byte), FramePremises s base count bytes →
    ∃ k t, 2 < k ∧ run k s = .next t ∧ t.seq = .idle ∧ t.cmds = s.cmds.tail ∧ t.ie = true ∧
      ∀ n, n ≤ k → ∃ u, run n s = .next u ∧ u.port &&& ~~~s.cfg.mask = s.port &&& ~~~s.cfg.mask ∧
        (0 < n → n < k → u.busy = true) ∧ (1 < n → n < k → u.ie = false)

/-- 42_bit_encoder.md R173, 00_scope.md R8: two engines that differ only in their strategy send the same frame with the
same events at the same cycles. -/
def Obligations.StrategiesAreObservablyEqual : Prop :=
  ∀ (s : State) (c : Cfg) (base count : Nat) (bytes : List Byte), FramePremises s base count bytes →
    c.strategy = .unrolled → s.cfg.strategy = .byteLoop →
    c.toParams = { s.cfg.toParams with strategy := .unrolled, adjBit := 0 } →
    ∃ k₁ t₁ k₂ t₂, run k₁ s = .next t₁ ∧ run k₂ { s with cfg := c } = .next t₂ ∧ t₁.seq = .idle ∧ t₂.seq = .idle ∧
      t₁.cyc = s.cyc + frameCycles s.cfg.toParams count ∧ t₂.cyc = t₁.cyc ∧ t₂.ev = t₁.ev ∧ t₂.port = t₁.port

/-- R200: the pulse trace depends only on `T1`, `T2`, `T3` and the bytes: not on the latencies, the strategy, which pin it
is, the port's other bits or `IE`. -/
def Obligations.PulseTraceDependsOnTimingAndBytesOnly : Prop :=
  ∀ (s₁ s₂ : State) (base₁ base₂ count : Nat) (bytes : List Byte),
    FramePremises s₁ base₁ count bytes → FramePremises s₂ base₂ count bytes →
    s₁.cfg.t1 = s₂.cfg.t1 → s₁.cfg.t2 = s₂.cfg.t2 → s₁.cfg.t3 = s₂.cfg.t3 →
    ∃ k₁ t₁ g₁ k₂ t₂ g₂, run k₁ s₁ = .next t₁ ∧ run k₂ s₂ = .next t₂ ∧ t₁.seq = .idle ∧ t₂.seq = .idle ∧
      t₁.cmds = s₁.cmds.tail ∧ t₂.cmds = s₂.cmds.tail ∧ t₁.ev = s₁.ev ++ g₁ ∧ t₂.ev = s₂.ev ++ g₂ ∧
      pulseTrace s₁.cfg.mask s₁.dir g₁ (firstRaise s₁.cfg.toParams s₁.cyc) (24 * count * s₁.cfg.period)
        = pulseTrace s₂.cfg.mask s₂.dir g₂ (firstRaise s₂.cfg.toParams s₂.cyc) (24 * count * s₂.cfg.period)

/-- R203: two frames with the same operands and bytes, on an engine whose port has the same other bits, have the same
events, shifted by the time between their acceptances. -/
def Obligations.SameFrameTwiceGivesTheSameEvents : Prop :=
  ∀ (s₁ s₂ : State) (base count d : Nat) (bytes : List Byte),
    FramePremises s₁ base count bytes → FramePremises s₂ base count bytes → s₁.cfg = s₂.cfg →
    s₁.port &&& ~~~s₁.cfg.mask = s₂.port &&& ~~~s₂.cfg.mask → s₂.cyc = s₁.cyc + d →
    ∃ k₁ t₁ g₁ k₂ t₂ g₂, run k₁ s₁ = .next t₁ ∧ run k₂ s₂ = .next t₂ ∧ t₁.seq = .idle ∧ t₂.seq = .idle ∧
      t₁.cmds = s₁.cmds.tail ∧ t₂.cmds = s₂.cmds.tail ∧ t₁.ev = s₁.ev ++ g₁ ∧ t₂.ev = s₂.ev ++ g₂ ∧
      g₂ = g₁.map (Event.later d) ∧ t₂.hi = t₁.hi ∧ t₂.lo = t₁.lo
end

