-- ==== Sys2Proof/Laws/Memory.lean ====
section
/-! SUPPORT. Frame memory: a read after a write, every other address unchanged, and the canonical form, which every
operation keeps. -/

namespace Sys2Proof.Machine.Memory

@[simp] theorem read_nil (a : Nat) : Memory.read [] a = none := rfl

@[simp] theorem read_cons (b : Nat) (v : Byte) (m : Memory) (a : Nat) :
    Memory.read ((b, v) :: m) a = if a = b then some v else Memory.read m a := rfl

/-- A read after a write to the same address gives the value written. -/
@[simp] theorem read_write_same (m : Memory) (a : Nat) (v : Byte) : (m.write a v).read a = some v := by
  induction m with
  | nil => simp [Memory.write]
  | cons c m ih =>
    obtain ⟨b, w⟩ := c
    simp only [Memory.write]
    split
    · simp
    · split
      · simp
      · rename_i h; simp [h, ih]

/-- A write leaves every other address alone. -/
theorem read_write_other (m : Memory) {a b : Nat} (v : Byte) (h : b ≠ a) : (m.write a v).read b = m.read b := by
  induction m with
  | nil => simp [Memory.write, h]
  | cons c m ih =>
    obtain ⟨d, w⟩ := c
    simp only [Memory.write]
    split
    · simp [h]
    · split
      · rename_i hd; subst hd; simp [h]
      · simp [ih]

/-- Every cell of a written memory is the new one or an old one. -/
theorem mem_write (m : Memory) (a : Nat) (v : Byte) {c : Host.Cell} (h : c ∈ m.write a v) : c = (a, v) ∨ c ∈ m := by
  induction m with
  | nil => simpa [Memory.write] using h
  | cons d m ih =>
    obtain ⟨b, w⟩ := d
    simp only [Memory.write] at h
    split at h
    · exact List.mem_cons.mp h
    · split at h <;> simp only [List.mem_cons] at h ⊢
      · tauto
      · exact h.elim (fun h => .inr (.inl h)) (fun h => (ih h).imp_right .inr)

/-- A write keeps the canonical form. -/
theorem write_wf (m : Memory) (a : Nat) (v : Byte) (h : m.wf) : (m.write a v).wf := by
  induction m with
  | nil => simp [Memory.write]
  | cons d m ih =>
    obtain ⟨b, w⟩ := d
    obtain ⟨hb, hm⟩ := List.pairwise_cons.mp h
    simp only [Memory.write]
    split
    · rename_i hab
      refine List.pairwise_cons.mpr ⟨?_, h⟩
      intro c hc
      rcases List.mem_cons.mp hc with rfl | hc
      · exact hab
      · exact Nat.lt_trans hab (hb c hc)
    · split
      · rename_i hab; subst hab; exact List.pairwise_cons.mpr ⟨hb, hm⟩
      · refine List.pairwise_cons.mpr ⟨?_, ih hm⟩
        intro c hc
        rcases mem_write m a v hc with rfl | hc
        · simp only at *; omega
        · exact hb c hc

/-- Giving up a byte keeps the canonical form. -/
theorem disown_wf (m : Memory) (a : Nat) (h : m.wf) : (m.disown a).wf := List.Pairwise.filter _ h

@[simp] theorem disown_nil (a : Nat) : Memory.disown [] a = [] := rfl

theorem disown_cons (c : Host.Cell) (m : Memory) (a : Nat) :
    Memory.disown (c :: m) a = if c.1 = a then Memory.disown m a else c :: Memory.disown m a := by
  by_cases h : c.1 = a <;> simp [Memory.disown, h]

/-- A byte given up has no value. -/
@[simp] theorem read_disown_same (m : Memory) (a : Nat) : (m.disown a).read a = none := by
  induction m with
  | nil => rfl
  | cons c m ih =>
    rw [disown_cons]
    split
    · exact ih
    · rename_i h; rw [read_cons, if_neg (Ne.symm h), ih]

/-- Giving up a byte leaves every other address alone. -/
theorem read_disown_other (m : Memory) {a b : Nat} (h : b ≠ a) : (m.disown a).read b = m.read b := by
  induction m with
  | nil => rfl
  | cons c m ih =>
    rw [disown_cons]
    split
    · rename_i hc; rw [read_cons, if_neg (fun hb => h (hb.trans hc)), ih]
    · rw [read_cons, read_cons, ih]

@[simp] theorem inSpace_nil (n : Nat) : Memory.inSpace [] n := fun _ h => absurd h List.not_mem_nil

/-- A write inside the frame space keeps every listed address inside it. -/
theorem write_inSpace {m : Memory} {n a : Nat} (v : Byte) (h : m.inSpace n) (ha : a < n) : (m.write a v).inSpace n := by
  intro c hc
  rcases mem_write m a v hc with rfl | hc
  · exact ha
  · exact h c hc

/-- Giving up a byte keeps every listed address inside the frame space. -/
theorem disown_inSpace {m : Memory} {n : Nat} (a : Nat) (h : m.inSpace n) : (m.disown a).inSpace n :=
  fun c hc => h c (List.mem_of_mem_filter hc)

/-- Declaring bytes leaves every address outside them alone. -/
theorem read_declare_other (bytes : List Byte) (m : Memory) {a b : Nat} (h : b < a ∨ a + bytes.length ≤ b) :
    (m.declare a bytes).read b = m.read b := by
  induction bytes generalizing m a with
  | nil => rfl
  | cons v vs ih =>
    rw [List.length_cons] at h
    rw [Memory.declare, ih _ (by omega), read_write_other m v (by omega)]

/-- Declared bytes are there afterwards, whatever the memory listed before: a later declaration stands (log 35). -/
theorem read_declare (bytes : List Byte) (m : Memory) (a i : Nat) (h : i < bytes.length) :
    (m.declare a bytes).read (a + i) = some bytes[i] := by
  induction bytes generalizing m a i with
  | nil => exact absurd h (Nat.not_lt_zero i)
  | cons v vs ih =>
    cases i with
    | zero => rw [Memory.declare, read_declare_other vs _ (.inl (by omega))]; simp
    | succ i =>
      rw [List.length_cons] at h
      rw [Memory.declare, show a + (i + 1) = a + 1 + i by omega, ih _ _ _ (by omega)]
      rfl

/-- Declaring bytes keeps the canonical form. -/
theorem declare_wf (bytes : List Byte) (m : Memory) (a : Nat) (h : m.wf) : (m.declare a bytes).wf := by
  induction bytes generalizing m a with
  | nil => exact h
  | cons v vs ih => exact ih _ _ (write_wf m a v h)

end Sys2Proof.Machine.Memory
end

