-- ==== Sys2Proof/Laws/State.lean ====
section
/-! SUPPORT. One lemma per field per named update of State, so that no later proof unfolds a record update. -/

namespace Sys2Proof.Machine.State

variable (s : State)

/-! `tick` -/
@[simp] theorem tick_cfg (n : Nat) : (s.tick n).cfg = s.cfg := rfl
@[simp] theorem tick_seq (n : Nat) : (s.tick n).seq = s.seq := rfl
@[simp] theorem tick_j (n : Nat) : (s.tick n).j = s.j := rfl
@[simp] theorem tick_hi (n : Nat) : (s.tick n).hi = s.hi := rfl
@[simp] theorem tick_lo (n : Nat) : (s.tick n).lo = s.lo := rfl
@[simp] theorem tick_cur (n : Nat) : (s.tick n).cur = s.cur := rfl
@[simp] theorem tick_tbit (n : Nat) : (s.tick n).tbit = s.tbit := rfl
@[simp] theorem tick_maskC (n : Nat) : (s.tick n).maskC = s.maskC := rfl
@[simp] theorem tick_portC (n : Nat) : (s.tick n).portC = s.portC := rfl
@[simp] theorem tick_ptr (n : Nat) : (s.tick n).ptr = s.ptr := rfl
@[simp] theorem tick_rem (n : Nat) : (s.tick n).rem = s.rem := rfl
@[simp] theorem tick_dly (n : Nat) : (s.tick n).dly = s.dly := rfl
@[simp] theorem tick_ie (n : Nat) : (s.tick n).ie = s.ie := rfl
@[simp] theorem tick_port (n : Nat) : (s.tick n).port = s.port := rfl
@[simp] theorem tick_dir (n : Nat) : (s.tick n).dir = s.dir := rfl
@[simp] theorem tick_inited (n : Nat) : (s.tick n).inited = s.inited := rfl
@[simp] theorem tick_mem (n : Nat) : (s.tick n).mem = s.mem := rfl
@[simp] theorem tick_cyc (n : Nat) : (s.tick n).cyc = s.cyc + n := rfl
@[simp] theorem tick_ev (n : Nat) : (s.tick n).ev = s.ev := rfl
@[simp] theorem tick_cmds (n : Nat) : (s.tick n).cmds = s.cmds := rfl
@[simp] theorem tick_agents (n : Nat) : (s.tick n).agents = s.agents := rfl

/-! `emit` -/
@[simp] theorem emit_cfg (e : Event) : (s.emit e).cfg = s.cfg := rfl
@[simp] theorem emit_seq (e : Event) : (s.emit e).seq = s.seq := rfl
@[simp] theorem emit_j (e : Event) : (s.emit e).j = s.j := rfl
@[simp] theorem emit_hi (e : Event) : (s.emit e).hi = s.hi := rfl
@[simp] theorem emit_lo (e : Event) : (s.emit e).lo = s.lo := rfl
@[simp] theorem emit_cur (e : Event) : (s.emit e).cur = s.cur := rfl
@[simp] theorem emit_tbit (e : Event) : (s.emit e).tbit = s.tbit := rfl
@[simp] theorem emit_maskC (e : Event) : (s.emit e).maskC = s.maskC := rfl
@[simp] theorem emit_portC (e : Event) : (s.emit e).portC = s.portC := rfl
@[simp] theorem emit_ptr (e : Event) : (s.emit e).ptr = s.ptr := rfl
@[simp] theorem emit_rem (e : Event) : (s.emit e).rem = s.rem := rfl
@[simp] theorem emit_dly (e : Event) : (s.emit e).dly = s.dly := rfl
@[simp] theorem emit_ie (e : Event) : (s.emit e).ie = s.ie := rfl
@[simp] theorem emit_port (e : Event) : (s.emit e).port = s.port := rfl
@[simp] theorem emit_dir (e : Event) : (s.emit e).dir = s.dir := rfl
@[simp] theorem emit_inited (e : Event) : (s.emit e).inited = s.inited := rfl
@[simp] theorem emit_mem (e : Event) : (s.emit e).mem = s.mem := rfl
@[simp] theorem emit_cyc (e : Event) : (s.emit e).cyc = s.cyc := rfl
@[simp] theorem emit_ev (e : Event) : (s.emit e).ev = s.ev ++ [e] := rfl
@[simp] theorem emit_cmds (e : Event) : (s.emit e).cmds = s.cmds := rfl
@[simp] theorem emit_agents (e : Event) : (s.emit e).agents = s.agents := rfl

/-! `goto` -/
@[simp] theorem goto_cfg (q : Seq) : (s.goto q).cfg = s.cfg := rfl
@[simp] theorem goto_seq (q : Seq) : (s.goto q).seq = q := rfl
@[simp] theorem goto_j (q : Seq) : (s.goto q).j = s.j := rfl
@[simp] theorem goto_hi (q : Seq) : (s.goto q).hi = s.hi := rfl
@[simp] theorem goto_lo (q : Seq) : (s.goto q).lo = s.lo := rfl
@[simp] theorem goto_cur (q : Seq) : (s.goto q).cur = s.cur := rfl
@[simp] theorem goto_tbit (q : Seq) : (s.goto q).tbit = s.tbit := rfl
@[simp] theorem goto_maskC (q : Seq) : (s.goto q).maskC = s.maskC := rfl
@[simp] theorem goto_portC (q : Seq) : (s.goto q).portC = s.portC := rfl
@[simp] theorem goto_ptr (q : Seq) : (s.goto q).ptr = s.ptr := rfl
@[simp] theorem goto_rem (q : Seq) : (s.goto q).rem = s.rem := rfl
@[simp] theorem goto_dly (q : Seq) : (s.goto q).dly = s.dly := rfl
@[simp] theorem goto_ie (q : Seq) : (s.goto q).ie = s.ie := rfl
@[simp] theorem goto_port (q : Seq) : (s.goto q).port = s.port := rfl
@[simp] theorem goto_dir (q : Seq) : (s.goto q).dir = s.dir := rfl
@[simp] theorem goto_inited (q : Seq) : (s.goto q).inited = s.inited := rfl
@[simp] theorem goto_mem (q : Seq) : (s.goto q).mem = s.mem := rfl
@[simp] theorem goto_cyc (q : Seq) : (s.goto q).cyc = s.cyc := rfl
@[simp] theorem goto_ev (q : Seq) : (s.goto q).ev = s.ev := rfl
@[simp] theorem goto_cmds (q : Seq) : (s.goto q).cmds = s.cmds := rfl
@[simp] theorem goto_agents (q : Seq) : (s.goto q).agents = s.agents := rfl

/-! `finish` -/
@[simp] theorem finish_cfg (n : Nat) : (s.finish n).cfg = s.cfg := rfl
@[simp] theorem finish_seq (n : Nat) : (s.finish n).seq = nextSeq s.seq := rfl
@[simp] theorem finish_j (n : Nat) : (s.finish n).j = s.j := rfl
@[simp] theorem finish_hi (n : Nat) : (s.finish n).hi = s.hi := rfl
@[simp] theorem finish_lo (n : Nat) : (s.finish n).lo = s.lo := rfl
@[simp] theorem finish_cur (n : Nat) : (s.finish n).cur = s.cur := rfl
@[simp] theorem finish_tbit (n : Nat) : (s.finish n).tbit = s.tbit := rfl
@[simp] theorem finish_maskC (n : Nat) : (s.finish n).maskC = s.maskC := rfl
@[simp] theorem finish_portC (n : Nat) : (s.finish n).portC = s.portC := rfl
@[simp] theorem finish_ptr (n : Nat) : (s.finish n).ptr = s.ptr := rfl
@[simp] theorem finish_rem (n : Nat) : (s.finish n).rem = s.rem := rfl
@[simp] theorem finish_dly (n : Nat) : (s.finish n).dly = s.dly := rfl
@[simp] theorem finish_ie (n : Nat) : (s.finish n).ie = s.ie := rfl
@[simp] theorem finish_port (n : Nat) : (s.finish n).port = s.port := rfl
@[simp] theorem finish_dir (n : Nat) : (s.finish n).dir = s.dir := rfl
@[simp] theorem finish_inited (n : Nat) : (s.finish n).inited = s.inited := rfl
@[simp] theorem finish_mem (n : Nat) : (s.finish n).mem = s.mem := rfl
@[simp] theorem finish_cyc (n : Nat) : (s.finish n).cyc = s.cyc + n := rfl
@[simp] theorem finish_ev (n : Nat) : (s.finish n).ev = s.ev := rfl
@[simp] theorem finish_cmds (n : Nat) : (s.finish n).cmds = s.cmds := rfl
@[simp] theorem finish_agents (n : Nat) : (s.finish n).agents = s.agents := rfl

/-! `setDir` -/
@[simp] theorem setDir_cfg : s.setDir.cfg = s.cfg := rfl
@[simp] theorem setDir_seq : s.setDir.seq = s.seq := rfl
@[simp] theorem setDir_j : s.setDir.j = s.j := rfl
@[simp] theorem setDir_hi : s.setDir.hi = s.hi := rfl
@[simp] theorem setDir_lo : s.setDir.lo = s.lo := rfl
@[simp] theorem setDir_cur : s.setDir.cur = s.cur := rfl
@[simp] theorem setDir_tbit : s.setDir.tbit = s.tbit := rfl
@[simp] theorem setDir_maskC : s.setDir.maskC = s.maskC := rfl
@[simp] theorem setDir_portC : s.setDir.portC = s.portC := rfl
@[simp] theorem setDir_ptr : s.setDir.ptr = s.ptr := rfl
@[simp] theorem setDir_rem : s.setDir.rem = s.rem := rfl
@[simp] theorem setDir_dly : s.setDir.dly = s.dly := rfl
@[simp] theorem setDir_ie : s.setDir.ie = s.ie := rfl
@[simp] theorem setDir_port : s.setDir.port = s.port := rfl
@[simp] theorem setDir_dir : s.setDir.dir = true := rfl
@[simp] theorem setDir_inited : s.setDir.inited = s.inited := rfl
@[simp] theorem setDir_mem : s.setDir.mem = s.mem := rfl
@[simp] theorem setDir_cyc : s.setDir.cyc = s.cyc := rfl
@[simp] theorem setDir_ev : s.setDir.ev = s.ev ++ [.dir s.cyc] := rfl
@[simp] theorem setDir_cmds : s.setDir.cmds = s.cmds := rfl
@[simp] theorem setDir_agents : s.setDir.agents = s.agents := rfl

/-! `writeIe` -/
@[simp] theorem writeIe_cfg (b : Bool) : (s.writeIe b).cfg = s.cfg := rfl
@[simp] theorem writeIe_seq (b : Bool) : (s.writeIe b).seq = s.seq := rfl
@[simp] theorem writeIe_j (b : Bool) : (s.writeIe b).j = s.j := rfl
@[simp] theorem writeIe_hi (b : Bool) : (s.writeIe b).hi = s.hi := rfl
@[simp] theorem writeIe_lo (b : Bool) : (s.writeIe b).lo = s.lo := rfl
@[simp] theorem writeIe_cur (b : Bool) : (s.writeIe b).cur = s.cur := rfl
@[simp] theorem writeIe_tbit (b : Bool) : (s.writeIe b).tbit = s.tbit := rfl
@[simp] theorem writeIe_maskC (b : Bool) : (s.writeIe b).maskC = s.maskC := rfl
@[simp] theorem writeIe_portC (b : Bool) : (s.writeIe b).portC = s.portC := rfl
@[simp] theorem writeIe_ptr (b : Bool) : (s.writeIe b).ptr = s.ptr := rfl
@[simp] theorem writeIe_rem (b : Bool) : (s.writeIe b).rem = s.rem := rfl
@[simp] theorem writeIe_dly (b : Bool) : (s.writeIe b).dly = s.dly := rfl
@[simp] theorem writeIe_ie (b : Bool) : (s.writeIe b).ie = b := rfl
@[simp] theorem writeIe_port (b : Bool) : (s.writeIe b).port = s.port := rfl
@[simp] theorem writeIe_dir (b : Bool) : (s.writeIe b).dir = s.dir := rfl
@[simp] theorem writeIe_inited (b : Bool) : (s.writeIe b).inited = s.inited := rfl
@[simp] theorem writeIe_mem (b : Bool) : (s.writeIe b).mem = s.mem := rfl
@[simp] theorem writeIe_cyc (b : Bool) : (s.writeIe b).cyc = s.cyc := rfl
@[simp] theorem writeIe_ev (b : Bool) : (s.writeIe b).ev = s.ev ++ [.ie s.cyc b] := rfl
@[simp] theorem writeIe_cmds (b : Bool) : (s.writeIe b).cmds = s.cmds := rfl
@[simp] theorem writeIe_agents (b : Bool) : (s.writeIe b).agents = s.agents := rfl

/-! `accept` -/
@[simp] theorem accept_cfg (q : Seq) : (s.accept q).cfg = s.cfg := rfl
@[simp] theorem accept_seq (q : Seq) : (s.accept q).seq = q := rfl
@[simp] theorem accept_j (q : Seq) : (s.accept q).j = s.j := rfl
@[simp] theorem accept_hi (q : Seq) : (s.accept q).hi = s.hi := rfl
@[simp] theorem accept_lo (q : Seq) : (s.accept q).lo = s.lo := rfl
@[simp] theorem accept_cur (q : Seq) : (s.accept q).cur = s.cur := rfl
@[simp] theorem accept_tbit (q : Seq) : (s.accept q).tbit = s.tbit := rfl
@[simp] theorem accept_maskC (q : Seq) : (s.accept q).maskC = s.maskC := rfl
@[simp] theorem accept_portC (q : Seq) : (s.accept q).portC = s.portC := rfl
@[simp] theorem accept_ptr (q : Seq) : (s.accept q).ptr = s.ptr := rfl
@[simp] theorem accept_rem (q : Seq) : (s.accept q).rem = s.rem := rfl
@[simp] theorem accept_dly (q : Seq) : (s.accept q).dly = s.dly := rfl
@[simp] theorem accept_ie (q : Seq) : (s.accept q).ie = s.ie := rfl
@[simp] theorem accept_port (q : Seq) : (s.accept q).port = s.port := rfl
@[simp] theorem accept_dir (q : Seq) : (s.accept q).dir = s.dir := rfl
@[simp] theorem accept_inited (q : Seq) : (s.accept q).inited = s.inited := rfl
@[simp] theorem accept_mem (q : Seq) : (s.accept q).mem = s.mem := rfl
@[simp] theorem accept_cyc (q : Seq) : (s.accept q).cyc = s.cyc := rfl
@[simp] theorem accept_ev (q : Seq) : (s.accept q).ev = s.ev := rfl
@[simp] theorem accept_cmds (q : Seq) : (s.accept q).cmds = s.cmds.tail := rfl
@[simp] theorem accept_agents (q : Seq) : (s.accept q).agents = s.agents := rfl

/-! `bitEnd` -/
@[simp] theorem bitEnd_cfg : s.bitEnd.cfg = s.cfg := rfl
@[simp] theorem bitEnd_seq : s.bitEnd.seq = .b1 := rfl
@[simp] theorem bitEnd_j : s.bitEnd.j = bumpJ s.j := rfl
@[simp] theorem bitEnd_hi : s.bitEnd.hi = s.hi := rfl
@[simp] theorem bitEnd_lo : s.bitEnd.lo = s.lo := rfl
@[simp] theorem bitEnd_cur : s.bitEnd.cur = s.cur := rfl
@[simp] theorem bitEnd_tbit : s.bitEnd.tbit = s.tbit := rfl
@[simp] theorem bitEnd_maskC : s.bitEnd.maskC = s.maskC := rfl
@[simp] theorem bitEnd_portC : s.bitEnd.portC = s.portC := rfl
@[simp] theorem bitEnd_ptr : s.bitEnd.ptr = s.ptr := rfl
@[simp] theorem bitEnd_rem : s.bitEnd.rem = s.rem := rfl
@[simp] theorem bitEnd_dly : s.bitEnd.dly = s.dly := rfl
@[simp] theorem bitEnd_ie : s.bitEnd.ie = s.ie := rfl
@[simp] theorem bitEnd_port : s.bitEnd.port = s.port := rfl
@[simp] theorem bitEnd_dir : s.bitEnd.dir = s.dir := rfl
@[simp] theorem bitEnd_inited : s.bitEnd.inited = s.inited := rfl
@[simp] theorem bitEnd_mem : s.bitEnd.mem = s.mem := rfl
@[simp] theorem bitEnd_cyc : s.bitEnd.cyc = s.cyc := rfl
@[simp] theorem bitEnd_ev : s.bitEnd.ev = s.ev := rfl
@[simp] theorem bitEnd_cmds : s.bitEnd.cmds = s.cmds := rfl
@[simp] theorem bitEnd_agents : s.bitEnd.agents = s.agents := rfl

/-! `systemReset` -/
@[simp] theorem systemReset_cfg (b : Bool) (v : Byte) : (s.systemReset b v).cfg = s.cfg := rfl
@[simp] theorem systemReset_seq (b : Bool) (v : Byte) : (s.systemReset b v).seq = .idle := rfl
@[simp] theorem systemReset_j (b : Bool) (v : Byte) : (s.systemReset b v).j = 0 := rfl
@[simp] theorem systemReset_hi (b : Bool) (v : Byte) : (s.systemReset b v).hi = 0 := rfl
@[simp] theorem systemReset_lo (b : Bool) (v : Byte) : (s.systemReset b v).lo = 0 := rfl
@[simp] theorem systemReset_cur (b : Bool) (v : Byte) : (s.systemReset b v).cur = 0 := rfl
@[simp] theorem systemReset_tbit (b : Bool) (v : Byte) : (s.systemReset b v).tbit = false := rfl
@[simp] theorem systemReset_maskC (b : Bool) (v : Byte) : (s.systemReset b v).maskC = 0 := rfl
@[simp] theorem systemReset_portC (b : Bool) (v : Byte) : (s.systemReset b v).portC = 0 := rfl
@[simp] theorem systemReset_ptr (b : Bool) (v : Byte) : (s.systemReset b v).ptr = 0 := rfl
@[simp] theorem systemReset_rem (b : Bool) (v : Byte) : (s.systemReset b v).rem = 0 := rfl
@[simp] theorem systemReset_dly (b : Bool) (v : Byte) : (s.systemReset b v).dly = 0 := rfl
@[simp] theorem systemReset_ie (b : Bool) (v : Byte) : (s.systemReset b v).ie = b := rfl
@[simp] theorem systemReset_port (b : Bool) (v : Byte) : (s.systemReset b v).port = v := rfl
@[simp] theorem systemReset_dir (b : Bool) (v : Byte) : (s.systemReset b v).dir = false := rfl
@[simp] theorem systemReset_inited (b : Bool) (v : Byte) : (s.systemReset b v).inited = false := rfl
@[simp] theorem systemReset_mem (b : Bool) (v : Byte) : (s.systemReset b v).mem = s.mem := rfl
@[simp] theorem systemReset_cyc (b : Bool) (v : Byte) : (s.systemReset b v).cyc = 0 := rfl
@[simp] theorem systemReset_ev (b : Bool) (v : Byte) : (s.systemReset b v).ev = [] := rfl
@[simp] theorem systemReset_cmds (b : Bool) (v : Byte) : (s.systemReset b v).cmds = s.cmds := rfl
@[simp] theorem systemReset_agents (b : Bool) (v : Byte) : (s.systemReset b v).agents = s.agents := rfl

end Sys2Proof.Machine.State
end

