-- ==== Sys2Proof/Laws/Timing.lean ====
section
/-! SUPPORT. What every configuration satisfies, since only buildable parameters make one (40_timing_and_delay.md R123). -/

namespace Sys2Proof

/-- A passed build check, taken apart. -/
theorem Params.buildCheck_none {p : Params} (h : p.buildCheck = none) :
    validate p.t1 p.t2 p.t3 = none ∧ p.constraintsHold = true ∧ p.delayNegative = false := by
  unfold Params.buildCheck at h
  split at h
  · cases h
  · rename_i hv
    split at h
    · cases h
    · rename_i hc
      split at h
      · cases h
      · rename_i hd; exact ⟨hv, by simpa using hc, by simpa using hd⟩

namespace Cfg

variable (c : Cfg)

/-- The thresholds of `VALIDATE` hold (R122). -/
theorem thresholds : 3 ≤ c.t1 ∧ 2 ≤ c.t2 ∧ 6 ≤ c.t3 := by
  have h := (Params.buildCheck_none c.built).1
  by_contra hn
  rw [validate, if_pos (by simp only [minT1, minT2, minT3]; omega)] at h
  cases h

/-- The constraints on the latencies hold (00_scope.md R9). -/
theorem latencies : c.pinBit < 8 ∧ 1 ≤ c.w ∧ c.w ≤ 2 ∧ 1 ≤ c.b ∧ c.w + c.b ≤ 3 ∧ 1 ≤ c.adjLast ∧ c.w + c.adjLast ≤ 6
    ∧ c.w + c.adjBit ≤ 6 ∧ (c.strategy = .byteLoop ∨ c.adjBit = 0) ∧ 1 ≤ c.lEnter ∧ 1 ≤ c.lSnap ∧ 1 ≤ c.lLoad
    ∧ 1 ≤ c.lLeave ∧ 1 ≤ c.lDir ∧ 1 ≤ c.lCache ∧ 1 ≤ c.lNop := by
  have h := (Params.buildCheck_none c.built).2.1
  simp only [Params.constraintsHold, Bool.and_eq_true, Bool.or_eq_true, decide_eq_true_eq] at h
  tauto

/-- The widths fit each other (00_scope.md R9). -/
theorem widths : 1 ≤ c.addrW ∧ 3 * (2 ^ c.countW - 1) < 2 ^ c.addrW := by
  have h := (Params.buildCheck_none c.built).2.1
  simp only [Params.constraintsHold, Bool.and_eq_true, Bool.or_eq_true, decide_eq_true_eq] at h
  tauto

/-- With the unrolled strategy the end of a bit costs nothing (00_scope.md R9). -/
theorem adjBit_unrolled (h : c.strategy = .unrolled) : c.adjBit = 0 := by
  rcases (latencies c).2.2.2.2.2.2.2.2.1 with h' | h'
  · rw [h] at h'; cases h'
  · exact h'

end Cfg

end Sys2Proof
end

