-- ==== Sys2Proof/Laws/Ops.lean ====
section
/-! SUPPORT. One lemma per shared operation that says once everything it can do; the provers cite these. -/

namespace Sys2Proof.Machine

/-! ### Port -/

theorem State.portNamed_iff (s : State) : s.portNamed = true ↔ s.portC = s.cfg.portId := by
  simp [State.portNamed]

/-- The port is readable when `PORT_C` names it. -/
theorem State.portRead_named {s : State} (h : s.portC = s.cfg.portId) : s.portRead = some s.port := by
  simp [State.portRead, State.portNamed, h]

/-- A port write to the named register. -/
theorem State.portWrite_named {s : State} (v : Byte) (h : s.portC = s.cfg.portId) :
    s.portWrite v = .next ({ s with port := v }.emit (.wr s.cyc v)) := by
  simp [State.portWrite, State.portNamed, h]

/-- Everything a port write can answer with a next state. -/
theorem State.portWrite_next {s t : State} {v : Byte} (h : s.portWrite v = .next t) :
    s.portC = s.cfg.portId ∧ t = { s with port := v, ev := s.ev ++ [.wr s.cyc v] } := by
  unfold State.portWrite at h
  split at h
  · rename_i hn
    exact ⟨(State.portNamed_iff s).mp hn, by injection h with h; exact h.symm⟩
  · cases h

/-! ### The end of a micro-operation -/

@[simp] theorem thenFinish_next (n : Nat) (s : State) : thenFinish n (.next s) = .next (s.finish n) := rfl

theorem thenFinish_inv {n : Nat} {r : Result} {t : State} (h : thenFinish n r = .next t) :
    ∃ u, r = .next u ∧ t = u.finish n := by
  cases r with
  | next u => exact ⟨u, rfl, by injection h with h; exact h.symm⟩
  | fault _ => cases h
  | refused _ => cases h

/-! ### Loads -/

/-- Everything a load can answer with a next state: the frame is over, or one byte was read. -/
theorem State.loadByte_next {s t : State} {n : Nat} (h : s.loadByte n = .next t) :
    (s.rem = 0 ∧ t = { s with seq := .f4, cyc := s.cyc + n }) ∨
    (∃ v, s.rem ≠ 0 ∧ s.ptr + s.rem ≤ 2 ^ s.cfg.addrW ∧ s.mem.read s.ptr = some v ∧
      t = { s with cur := v, ptr := (s.ptr + 1) % 2 ^ s.cfg.addrW, rem := s.rem - 1, j := 0, seq := .b1,
                   ev := s.ev ++ [.rd s.cyc s.ptr], cyc := s.cyc + n }) := by
  unfold State.loadByte at h
  split at h
  · rename_i h0
    exact .inl ⟨h0, by injection h with h; exact h.symm⟩
  · rename_i h0
    split at h
    · cases h
    · rename_i hw
      split at h
      · cases h
      · rename_i v hv
        exact .inr ⟨v, h0, by omega, hv, by injection h with h; exact h.symm⟩

/-- A load with a byte left, inside the address space and owned by the host. -/
theorem State.loadByte_some {s : State} {v : Byte} (n : Nat) (h0 : s.rem ≠ 0) (hw : s.ptr + s.rem ≤ 2 ^ s.cfg.addrW)
    (hv : s.mem.read s.ptr = some v) :
    s.loadByte n = .next { s with cur := v, ptr := (s.ptr + 1) % 2 ^ s.cfg.addrW, rem := s.rem - 1, j := 0, seq := .b1,
                                  ev := s.ev ++ [.rd s.cyc s.ptr], cyc := s.cyc + n } := by
  unfold State.loadByte
  rw [if_neg h0, if_neg (by omega), hv]
  rfl

/-- A load with no byte left. -/
theorem State.loadByte_empty {s : State} (n : Nat) (h0 : s.rem = 0) :
    s.loadByte n = .next { s with seq := .f4, cyc := s.cyc + n } := by
  unfold State.loadByte
  rw [if_pos h0]
  rfl

/-! ### Commands -/

theorem State.busy_iff (s : State) : s.busy = true ↔ s.seq ≠ .idle := by simp [State.busy]

/-- A command at `IDLE`. -/
theorem State.whenIdle_idle {s : State} (r : Result) (h : s.seq = .idle) : s.whenIdle r = r := by
  simp [State.whenIdle, State.busy, h]

/-- A command while `BUSY = 1`: nothing changes. -/
theorem State.whenIdle_busy {s : State} (r : Result) (h : s.seq ≠ .idle) : s.whenIdle r = .next s := by
  simp [State.whenIdle, State.busy, h]

theorem State.whenIdle_next {s t : State} {r : Result} (h : s.whenIdle r = .next t) :
    (s.seq ≠ .idle ∧ t = s) ∨ (s.seq = .idle ∧ r = .next t) := by
  by_cases hs : s.seq = .idle
  · exact .inr ⟨hs, by rwa [State.whenIdle_idle r hs] at h⟩
  · rw [State.whenIdle_busy r hs] at h
    exact .inl ⟨hs, by injection h with h; exact h.symm⟩

/-! ### Other agents -/

/-- Everything another agent's act can do when it answers a next state. -/
theorem State.land_next {s t : State} {act : AgentAct} (h : s.land act = .next t) :
    (∃ v, act = .writePort v ∧ s.seq = .idle ∧ t = { s with port := v }) ∨
    (∃ b, act = .writeIe b ∧ s.seq = .idle ∧ t = { s with ie := b }) ∨
    (∃ a v, act = .writeMem a v ∧ s.seq = .idle ∧ a < 2 ^ s.cfg.addrW ∧ t = { s with mem := s.mem.write a v }) ∨
    (∃ a, act = .disown a ∧ s.seq = .idle ∧ a < 2 ^ s.cfg.addrW ∧ t = { s with mem := s.mem.disown a }) ∨
    (∃ b v, act = .reset b v ∧ t = s.systemReset b v) := by
  cases act with
  | writePort v =>
    simp only [State.land] at h
    split at h
    · cases h
    · rename_i hb
      have hb : s.seq = .idle := by simpa [State.busy] using hb
      exact .inl ⟨v, rfl, hb, by injection h with h; exact h.symm⟩
  | writeIe b =>
    simp only [State.land] at h
    split at h
    · cases h
    · rename_i hb
      have hb : s.seq = .idle := by simpa [State.busy] using hb
      exact .inr (.inl ⟨b, rfl, hb, by injection h with h; exact h.symm⟩)
  | writeMem a v =>
    simp only [State.land, State.hostMemory] at h
    split at h
    · cases h
    · rename_i hb
      have hb : s.seq = .idle := by simpa [State.busy] using hb
      split at h
      · cases h
      · exact .inr (.inr (.inl ⟨a, v, rfl, hb, by omega, by injection h with h; exact h.symm⟩))
  | disown a =>
    simp only [State.land, State.hostMemory] at h
    split at h
    · cases h
    · rename_i hb
      have hb : s.seq = .idle := by simpa [State.busy] using hb
      split at h
      · cases h
      · exact .inr (.inr (.inr (.inl ⟨a, rfl, hb, by omega, by injection h with h; exact h.symm⟩)))
  | reset b v =>
    exact .inr (.inr (.inr (.inr ⟨b, v, rfl, by simp only [State.land] at h; injection h with h; exact h.symm⟩)))

/-- Every act of another agent keeps the canonical form of memory. -/
theorem State.land_wf {s t : State} {act : AgentAct} (h : s.land act = .next t) (hw : s.mem.wf) : t.mem.wf := by
  rcases State.land_next h with ⟨v, -, -, rfl⟩ | ⟨b, -, -, rfl⟩ | ⟨a, v, -, -, -, rfl⟩ | ⟨a, -, -, -, rfl⟩ | ⟨b, v, -, rfl⟩
  · exact hw
  · exact hw
  · exact Memory.write_wf _ _ _ hw
  · exact Memory.disown_wf _ _ hw
  · exact hw

/-! ### A step -/

/-- Everything a step can do when it answers a next state: another agent's move lands, or an instruction is executed, or an
unrolled bit ends, or the engine waits one cycle. -/
theorem step_next {s t : State} (h : step s = .next t) :
    (∃ m rest, s.dueMove = some (m, rest) ∧ State.land m.act { s with agents := rest } = .next t) ∨
    (∃ i, s.dueMove = none ∧ s.issue = .op i ∧ exec i s = .next t) ∨
    (s.dueMove = none ∧ s.issue = .bitEnd ∧ t = s.bitEnd) ∨
    (s.dueMove = none ∧ s.issue = .waits ∧ t = s.tick 1) := by
  unfold step at h
  split at h
  · rename_i m rest hd; exact .inl ⟨m, rest, hd, h⟩
  · rename_i hd
    split at h
    · rename_i i hi; exact .inr (.inl ⟨i, hd, hi, h⟩)
    · rename_i hi; exact .inr (.inr (.inl ⟨hd, hi, by injection h with h; exact h.symm⟩))
    · rename_i hi; exact .inr (.inr (.inr ⟨hd, hi, by injection h with h; exact h.symm⟩))
    · cases h

/-- The moves after a due one are the tail of the list. -/
theorem State.dueMove_some {s : State} {m : AgentMove} {rest : List AgentMove} (h : s.dueMove = some (m, rest)) :
    s.agents = m :: rest ∧ m.cycle < s.cyc + s.window := by
  unfold State.dueMove at h
  split at h
  · cases h
  · rename_i m' rest' ha
    split at h
    · rename_i hc
      injection h with h
      injection h with h1 h2
      subst h1; subst h2
      exact ⟨ha, hc⟩
    · cases h

/-- A move that happens before the end of this step's cycles is due. -/
theorem State.dueMove_due {s : State} {m : AgentMove} {rest : List AgentMove} (h : s.agents = m :: rest)
    (hc : m.cycle < s.cyc + s.window) : s.dueMove = some (m, rest) := by
  simp [State.dueMove, h, hc]

/-- A due move is what the step does. -/
theorem step_due {s : State} {m : AgentMove} {rest : List AgentMove} (h : s.dueMove = some (m, rest)) :
    step s = State.land m.act { s with agents := rest } := by
  simp [step, h]

/-- A step looks at the present cycle at least. -/
theorem State.window_pos (s : State) : 0 < s.window := by
  unfold State.window
  split
  · omega
  all_goals exact Nat.one_pos

/-- While busy, a step looks at every cycle of the micro-operation the position names. -/
theorem State.window_uop {s : State} {u : MicroOp} (hb : s.seq ≠ .idle) (hu : uopAt s.cfg.toParams s.seq s.j = some u) :
    s.window = max 1 (latency s.cfg.toParams u.instr) := by
  simp [State.window, State.issue, State.busy, hb, hu]

@[simp] theorem State.dueMove_nil {s : State} (h : s.agents = []) : s.dueMove = none := by
  simp [State.dueMove, h]

/-- No move is due when the first one happens after this step's cycles. -/
theorem State.dueMove_none {s : State} (h : ∀ m, s.agents.head? = some m → s.cyc + s.window ≤ m.cycle) :
    s.dueMove = none := by
  unfold State.dueMove
  split
  · rfl
  · rename_i m rest ha
    have hm : s.cyc + s.window ≤ m.cycle := h m (by rw [ha]; rfl)
    rw [if_neg (by omega)]

/-! ### Runs -/

/-- `run` is the host's own way of taking several steps. -/
theorem run_eq_core (k : Nat) (s : State) : run k s = Host.Core.run Sys2Proof.core k s := by
  induction k generalizing s with
  | zero => rfl
  | succ k ih =>
    have hc : Sys2Proof.core.step s = step s := rfl
    simp only [run, Host.Core.run, hc]
    cases step s with
    | next t => exact ih t
    | fault _ => rfl
    | refused _ => rfl

theorem run_succ {s t : State} (k : Nat) (h : step s = .next t) : run (k + 1) s = run k t := by
  simp [run, h]

/-- Runs compose. -/
theorem run_add {a b : Nat} {s t : State} (h : run a s = .next t) : run (a + b) s = run b t := by
  induction a generalizing s with
  | zero =>
    have : s = t := by simpa [run] using h
    simp [this]
  | succ a ih =>
    cases hs : step s with
    | next u =>
      have h' : run a u = .next t := by simpa [run, hs] using h
      have := ih h'
      rw [Nat.succ_add, run_succ _ hs, this]
    | fault _ => simp [run, hs] at h
    | refused _ => simp [run, hs] at h

/-- Traces compose. -/
theorem trace_add {a b : Nat} {s t : State} (h : run a s = .next t) : trace (a + b) s = trace a s ++ trace b t := by
  induction a generalizing s with
  | zero =>
    have : s = t := by simpa [run] using h
    simp [this, trace]
  | succ a ih =>
    cases hs : step s with
    | next u =>
      have h' : run a u = .next t := by simpa [run, hs] using h
      rw [Nat.succ_add]
      simp [trace, hs, ih h']
    | fault _ => simp [run, hs] at h
    | refused _ => simp [run, hs] at h

end Sys2Proof.Machine
end

