-- ==== Sys2Proof/Laws/PerInstr.lean ====
section
/-! SUPPORT. Statements made per instruction: the family `EncodeFits`, that the encoding of a well-formed instruction fits
the bits its format has (30_encoding.md R101: `CMD_W` bits; R104: a 4-bit code). -/

namespace Sys2Proof.Laws.EncodeFits

/-- The encoded form fits its format. -/
def Fits (p : Params) : Encoded → Prop
  | .cmd word => word < 2 ^ p.cmdW
  | .uop code _ => code < 2 ^ 4

/-- The statement of the family. -/
def Statement (i : Instr) : Prop := ∀ p : Params, i.wf p = true → Fits p (encode p i)

theorem fixed_lt_cmdW (p : Params) (n : Nat) (h : n < 4) : n < 2 ^ p.cmdW := by
  have : 2 ^ 2 ≤ 2 ^ p.cmdW := Nat.pow_le_pow_right (by decide) (by unfold Params.cmdW; omega)
  omega

theorem code_lt {p : Params} {code operand : Nat} (h : code < 2 ^ 4) : Fits p (.uop code operand) := h

theorem init : Statement .init := fun p _ => by
  simpa only [Fits, encode, commandWord, Nat.zero_mul, Nat.add_zero] using fixed_lt_cmdW p 0 (by decide)

theorem showrgb (base count : Nat) : Statement (.showrgb base count) := by
  intro p h
  simp only [Instr.wf, Bool.and_eq_true, decide_eq_true_eq] at h
  obtain ⟨hb, hc⟩ := h
  show 1 + base * 2 ^ 2 + count * 2 ^ (2 + p.addrW) < 2 ^ (2 + p.addrW + p.countW)
  have e1 : 2 ^ (2 + p.addrW + p.countW) = 2 ^ (2 + p.addrW) * 2 ^ p.countW := Nat.pow_add ..
  have e2 : 2 ^ (2 + p.addrW) = 2 ^ 2 * 2 ^ p.addrW := Nat.pow_add ..
  have h1 : (count + 1) * 2 ^ (2 + p.addrW) ≤ 2 ^ p.countW * 2 ^ (2 + p.addrW) := Nat.mul_le_mul_right _ hc
  have h2 : (count + 1) * 2 ^ (2 + p.addrW) = count * 2 ^ (2 + p.addrW) + 2 ^ (2 + p.addrW) := Nat.succ_mul ..
  have h3 : 2 ^ p.countW * 2 ^ (2 + p.addrW) = 2 ^ (2 + p.addrW) * 2 ^ p.countW := Nat.mul_comm ..
  omega

theorem showargb : Statement .showargb :=
  fun p _ => by
    simpa only [Fits, encode, commandWord, Nat.zero_mul, Nat.add_zero] using fixed_lt_cmdW p 2 (by decide)

theorem reservedCommand11 : Statement .reservedCommand11 :=
  fun p _ => by
    simpa only [Fits, encode, commandWord, Nat.zero_mul, Nat.add_zero] using fixed_lt_cmdW p 3 (by decide)

theorem nop : Statement .nop := fun _ _ => code_lt (by decide)
theorem dirout : Statement .dirout := fun _ _ => code_lt (by decide)
theorem cache : Statement .cache := fun _ _ => code_lt (by decide)
theorem aenter : Statement .aenter := fun _ _ => code_lt (by decide)
theorem aleave : Statement .aleave := fun _ _ => code_lt (by decide)
theorem snap : Statement .snap := fun _ _ => code_lt (by decide)
theorem setlo : Statement .setlo := fun _ _ => code_lt (by decide)
theorem sethi : Statement .sethi := fun _ _ => code_lt (by decide)
theorem delay (n : Nat) : Statement (.delay n) := fun _ _ => code_lt (by decide)
theorem testb (k : Nat) : Statement (.testb k) := fun _ _ => code_lt (by decide)
theorem cdrop : Statement .cdrop := fun _ _ => code_lt (by decide)
theorem shift : Statement .shift := fun _ _ => code_lt (by decide)
theorem first : Statement .first := fun _ _ => code_lt (by decide)
theorem next : Statement .next := fun _ _ => code_lt (by decide)
theorem reservedUop14 : Statement .reservedUop14 := fun _ _ => code_lt (by decide)
theorem reservedUop15 : Statement .reservedUop15 := fun _ _ => code_lt (by decide)

end Sys2Proof.Laws.EncodeFits
end

