-- ==== Sys2Proof/Laws/Wire.lean ====
section
/-! SUPPORT. What the line of an event list is, event by event, and where the two readings of it agree (log 18). -/

namespace Sys2Proof.Machine

@[simp] theorem lastWr_nil (c : Nat) : lastWr [] c = none := rfl

/-- The last event of a list decides, unless it is no write of cycle `c` or before. -/
theorem lastWr_concat (ev : List Event) (e : Event) (c : Nat) :
    lastWr (ev ++ [e]) c =
      match e with
      | .wr t v => if t ≤ c then some v else lastWr ev c
      | .ie _ _ => lastWr ev c
      | .rd _ _ => lastWr ev c
      | .dir _ => lastWr ev c := by
  unfold lastWr
  rw [List.foldl_append]
  cases e <;> rfl

/-- A write of a later cycle than all asked for changes no earlier answer. -/
theorem lastWr_later (ev : List Event) {e : Event} {c : Nat} (h : c < e.cycle) : lastWr (ev ++ [e]) c = lastWr ev c := by
  rw [lastWr_concat]
  cases e with
  | wr t v => exact if_neg (Nat.not_le.mpr h)
  | ie _ _ => rfl
  | rd _ _ => rfl
  | dir _ => rfl

@[simp] theorem dirAt_driven (ev : List Event) (c : Nat) : dirAt true ev c = true := rfl

@[simp] theorem dirAt_nil (driven : Bool) (c : Nat) : dirAt driven [] c = driven := by simp [dirAt]

/-- On a driven pin the line has R14's level. -/
@[simp] theorem lineAt_driven (mask : Byte) (ev : List Event) (c : Nat) : lineAt mask true ev c = some (levelAt mask ev c) :=
  rfl

/-- Without the output direction the line has no value. -/
theorem lineAt_undriven {mask : Byte} {driven : Bool} {ev : List Event} {c : Nat} (h : dirAt driven ev c = false) :
    lineAt mask driven ev c = none := by simp [lineAt, h]

/-- From the first write on, the line by the events is the line by the port. -/
theorem lineAt_eq_portLineAt {mask : Byte} {driven : Bool} {ev : List Event} {c : Nat} {v : Byte} (before : Byte)
    (h : lastWr ev c = some v) : lineAt mask driven ev c = portLineAt mask driven before ev c := by
  simp [lineAt, portLineAt, levelAt, portAt, h]

/-- The two readings also agree where the pin's bit was 0 before the list. -/
theorem lineAt_eq_portLineAt_low {mask : Byte} {driven : Bool} {ev : List Event} {c : Nat} {before : Byte}
    (h : before &&& mask = 0) : lineAt mask driven ev c = portLineAt mask driven before ev c := by
  cases hw : lastWr ev c with
  | none => simp [lineAt, portLineAt, levelAt, portAt, hw, h]
  | some v => exact lineAt_eq_portLineAt before hw

end Sys2Proof.Machine
end

