-- ==== Sys2Proof/Tests/Slice0.lean ====
section
/-! SUPPORT. Tests of one step each, their expected results taken from 95_test_vectors.md or computed by hand from the rule
named; and witnesses that the hypotheses of the statements can be met. -/

namespace Sys2Proof.Tests

open Sys2Proof.Machine

/-! ### Helpers -/

/-- What a result's next state shows, if there is one. -/
def out {α : Type} (r : Result) (f : State → α) : Option α :=
  match r with
  | .next t => some (f t)
  | .fault _ => none
  | .refused _ => none

/-- Whether a result is a next state. -/
def answers : Result → Bool
  | .next _ => true
  | .fault _ => false
  | .refused _ => false

/-- What `answers` says. -/
theorem answers_next {r : Result} (h : answers r = true) : ∃ t, r = .next t := by
  cases r with
  | next t => exact ⟨t, rfl⟩
  | fault _ => cases h
  | refused _ => cases h

/-- After `INIT` with the pin of program P1 (`MASK = 0x10`): at `IDLE`, interrupts on, the port as in P1. -/
def ready : State :=
  { State.reset with inited := true, maskC := 0x10, dir := true, port := 0xA5, ie := true, hi := 0xB5, lo := 0xA5 }

/-- A state of a frame at a position, at a cycle. -/
def pos (q : Seq) (j : BitIndex) (c : Nat) : State := { ready with seq := q, j := j, cyc := c, ie := false }

/-- `ready` with a command word presented and host-owned bytes. -/
def shown (word addr : Nat) (bytes : List Byte) : State :=
  { ready with cmds := [⟨0, word⟩], mem := Memory.declare [] addr bytes }

/-- `ready` on the byte-loop build. -/
def byteLoop : State := { ready with cfg := Cfg.referenceByteLoop }

/-- The tightest legal timing (95_test_vectors.md program P6). -/
def tight : Cfg := ⟨{ Params.reference with t1 := 3, t2 := 2, t3 := 6 }, by decide⟩

/-! ### WellFormed smoke: one ill-formed term per check (R101, R104) -/

theorem test_wf_base_too_wide : Instr.wf Params.reference (.showrgb 65536 0) = false := by decide
theorem test_wf_count_too_wide : Instr.wf Params.reference (.showrgb 0 16384) = false := by decide
theorem test_wf_testb_too_large : Instr.wf Params.reference (.testb 8) = false := by decide
theorem test_wf_boundaries : Instr.wf Params.reference (.showrgb 65535 16383) = true ∧
    Instr.wf Params.reference (.testb 7) = true ∧ Instr.wf Params.reference (.delay 1000000) = true := by decide

/-! ### Decoding: every constructor by a word written out from R101, R102, R104 -/

theorem test_decode_init : decodeTableWord 32 0b00000000000000_0000000000000000_00 = some .init := by decide
/-- 95_test_vectors.md P1: `SHOWRGB 0x0100, 1` is `0x00040401`. -/
theorem test_decode_showrgb :
    decodeTableWord 32 0b00000000000001_0000000100000000_01 = some (.showrgb 0x0100 1) := by decide
/-- 95_test_vectors.md P2: `SHOWARGB 0x0100, 5` is `0x00140402`. -/
theorem test_decode_showargb : decodeTableWord 32 0b00000000000101_0000000100000000_10 = some .showargb := by decide
theorem test_decode_reserved_command :
    decodeTableWord 32 0b00000000000000_0000000000000000_11 = some .reservedCommand11 := by decide
theorem test_decode_nop : decodeTableWord 8 0b0000 = some .nop := by decide
theorem test_decode_dirout : decodeTableWord 8 0b0001 = some .dirout := by decide
theorem test_decode_cache : decodeTableWord 8 0b0010 = some .cache := by decide
theorem test_decode_aenter : decodeTableWord 8 0b0011 = some .aenter := by decide
theorem test_decode_aleave : decodeTableWord 8 0b0100 = some .aleave := by decide
theorem test_decode_snap : decodeTableWord 8 0b0101 = some .snap := by decide
theorem test_decode_setlo : decodeTableWord 8 0b0110 = some .setlo := by decide
theorem test_decode_sethi : decodeTableWord 8 0b0111 = some .sethi := by decide
theorem test_decode_delay : decodeUop 0b1000 6 = .ok (.delay 6) := by rfl
theorem test_decode_testb : decodeUop 0b1001 7 = .ok (.testb 7) := by rfl
theorem test_decode_cdrop : decodeTableWord 8 0b1010 = some .cdrop := by decide
theorem test_decode_shift : decodeTableWord 8 0b1011 = some .shift := by decide
theorem test_decode_first : decodeTableWord 8 0b1100 = some .first := by decide
theorem test_decode_next : decodeTableWord 8 0b1101 = some .next := by decide
theorem test_decode_reserved_14 : decodeTableWord 8 0b1110 = some .reservedUop14 := by decide
theorem test_decode_reserved_15 : decodeTableWord 8 0b1111 = some .reservedUop15 := by decide

/-- R106: the codes 14 and 15 are no micro-operation. -/
theorem test_decode_reserved_codes : decodeMicroOp 0b1110 0 = .error .reservedCode ∧
    decodeMicroOp 0b1111 0 = .error .reservedCode := ⟨rfl, rfl⟩

theorem test_decode_rejections :
    decodeCommand Params.reference (2 ^ 32) = .error .wordTooWide ∧ decodeUop 16 0 = .error .codeTooWide ∧
    decodeUop 9 8 = .error .bitIndexOutOfRange ∧ decodeUop 7 1 = .error .strayOperand := ⟨rfl, rfl, rfl, rfl⟩

/-- The words of P1, P2, P3 of 95_test_vectors.md. -/
theorem test_program_words : (HostLine.showrgb 0x0100 1).word Params.reference = some 0x00040401 ∧
    (HostLine.showargb 0x0100 5).word Params.reference = some 0x00140402 ∧
    (HostLine.showrgb 0x0200 0).word Params.reference = some 0x00000801 ∧
    (HostLine.showrgb 0x0040 1).word Params.reference = some 0x00040101 := by decide

/-- 95_test_vectors.md P1's trace syntax. -/
theorem test_trace_lines : traceLine 174 (.delay 6) = "@174 DELAY 6" ∧ traceLine 10 .sethi = "@10 SETHI" := by decide

/-! ### Build time: 95_test_vectors.md sections 2.1, 2.2 -/

theorem test_ns2cyc : ns2cyc 400 16 = .ok 6 ∧ ns2cyc 850 16 = .ok 13 ∧ ns2cyc 8000 16 = .ok 129 ∧ ns2cyc 124 8 = .ok 0 ∧
    ns2cyc 400 1 = .ok 0 ∧ ns2cyc 400 0 = .error .clockOutOfRange ∧ ns2cyc 400 1001 = .error .clockOutOfRange :=
  ⟨rfl, rfl, rfl, rfl, rfl, rfl, rfl⟩
theorem test_validate : validate 3 2 6 = none ∧ validate 2 2 6 = some .timingInfeasible ∧
    validate 3 1 6 = some .timingInfeasible ∧ validate 3 2 5 = some .timingInfeasible ∧
    validate 1000000 2 6 = none := by decide
theorem test_delay_arguments : Params.reference.n1 = 5 ∧ Params.reference.n2 = 6 ∧ Params.reference.n3 = 4 ∧
    Params.reference.n3L = 0 ∧ tight.n1 = 0 ∧ tight.n3 = 4 ∧ Params.referenceByteLoop.n3 = 3 := by decide

/-! ### One step of each instruction: 95_test_vectors.md sections 2.3 to 2.5 and the programs of section 3 -/

/-- P1: `INIT` accepted at 0; `DIROUT` issues at 0. -/
theorem test_init : out (step { State.reset with cmds := [⟨0, 0x00000000⟩] }) (fun t => (t.seq, t.cyc, t.cmds))
    = some (.i0, 0, []) := by decide
/-- P1: the operands of `SHOWRGB 0x0100, 1`. -/
theorem test_showrgb : out (step (shown 0x00040401 0 [])) (fun t => (t.seq, t.ptr, t.rem)) = some (.f0, 0x0100, 3) := by
  decide
/-- P4: a frame before `INIT`. -/
theorem test_showrgb_before_init :
    step { State.reset with cmds := [⟨0, 0x00000001⟩] } = .fault .showBeforeInit := by rfl
/-- P2: `SHOWARGB` with operands it ignores. -/
theorem test_showargb : out (step (shown 0x00140402 0 [])) (fun t => (t.seq, t.ptr, t.rem)) = some (.a0, 0, 0) := by decide
/-- R106, R216. -/
theorem test_reserved_command : step (shown 0x00000003 0 []) = .refused .reservedCommand := by rfl
/-- P2: `@2 NOP`, then accepted at 3. -/
theorem test_nop : out (step (pos .a0 0 2)) (fun t => (t.seq, t.cyc, t.ev)) = some (.idle, 3, []) := by decide
theorem test_dirout : out (step { State.reset with seq := .i0 }) (fun t => (t.dir, t.ev, t.cyc, t.port))
    = some (true, [.dir 0], 1, 0) := by decide
theorem test_cache : out (step { State.reset with seq := .i1, cyc := 1 })
    (fun t => (t.maskC, t.portC, t.inited, t.cyc, t.seq)) = some (0x10, 0, true, 2, .idle) := by decide
theorem test_aenter : out (step { pos .f0 0 2 with ie := true }) (fun t => (t.ie, t.ev, t.cyc))
    = some (false, [.ie 2 false], 3) := by decide
theorem test_aleave : out (step (pos .f4 7 538)) (fun t => (t.ie, t.ev, t.cyc, t.seq))
    = some (true, [.ie 538 true], 539, .idle) := by decide
theorem test_snap_pin_low : out (step { pos .f1 0 3 with hi := 0, lo := 0 }) (fun t => (t.hi, t.lo, t.cyc))
    = some (0xB5, 0xA5, 6) := by decide
theorem test_snap_pin_high : out (step { pos .f1 0 3 with port := 0xB5 }) (fun t => (t.hi, t.lo, t.port))
    = some (0xB5, 0xA5, 0xB5) := by decide
/-- The redundant write of phase 3 after a 0 bit. -/
theorem test_setlo_redundant : out (step (pos .b6 0 66)) (fun t => (t.port, t.ev, t.cyc))
    = some (0xA5, [.wr 66 0xA5], 68) := by decide
theorem test_sethi : out (step (pos .b1 0 50)) (fun t => (t.port, t.ev, t.cyc)) = some (0xB5, [.wr 50 0xB5], 52) := by
  decide
theorem test_delay : out (step (pos .b2 0 12)) (fun t => (t.cyc, t.seq, t.ev)) = some (17, .b3, []) := by decide
theorem test_delay_zero : out (step (pos .b7 7 182)) (fun t => (t.cyc, t.seq, t.ev)) = some (182, .b8, []) := by decide
/-- At `(B3, 0)` the operand is 7, at `(B3, 1)` it is 6. -/
theorem test_testb : out (step { pos .b3 0 17 with cur := 0x80 }) (fun t => (t.tbit, t.cyc)) = some (true, 18) ∧
    out (step { pos .b3 1 39 with cur := 0x80 }) (fun t => (t.tbit, t.cyc)) = some (false, 40) := by decide
theorem test_cdrop_zero : out (step { pos .b4 0 58 with port := 0xB5 }) (fun t => (t.port, t.ev, t.cyc))
    = some (0xA5, [.wr 58 0xA5], 60) := by decide
theorem test_cdrop_one : out (step { pos .b4 0 58 with port := 0xB5, tbit := true }) (fun t => (t.port, t.ev, t.cyc))
    = some (0xB5, [], 60) := by decide
theorem test_shift : out (step { byteLoop with seq := .b8, j := 3, cur := 0x55 }) (fun t => (t.cur, t.j, t.cyc, t.seq))
    = some (0xAA, 4, 1, .b1) := by decide
/-- The unrolled strategy issues nothing there, and takes no cycle (2.6). -/
theorem test_shift_unrolled : out (step { pos .b8 3 32 with cur := 0x55 }) (fun t => (t.cur, t.j, t.cyc, t.seq))
    = some (0x55, 4, 32, .b1) := by decide
theorem test_first : out (step { shown 0 0x0100 [0xFF] with seq := .f3, cyc := 8, ptr := 0x0100, rem := 3 })
    (fun t => ((t.cur, t.ptr, t.rem), t.j, t.seq, t.ev, t.cyc))
      = some ((0xFF, 0x0101, 2), 0, .b1, [.rd 8 0x0100], 10) := by decide
theorem test_first_empty : out (step (pos .f3 0 9)) (fun t => (t.seq, t.ev, t.cyc)) = some (.f4, [], 11) := by decide
theorem test_next : out (step { shown 0 0x0101 [0x00] with seq := .b8, j := 7, cyc := 182, ptr := 0x0101, rem := 2, cur := 1 })
    (fun t => ((t.cur, t.ptr, t.rem), t.j, t.seq, t.ev, t.cyc))
      = some ((0, 0x0102, 1), 0, .b1, [.rd 182 0x0101], 186) := by decide
/-- The frame ends at the top of memory: legal, and `PTR` wraps. -/
theorem test_next_top : out (step { shown 0 0xFFFF [0x2A] with seq := .b8, j := 7, ptr := 0xFFFF, rem := 1 })
    (fun t => (t.cur, t.ptr, t.rem)) = some (0x2A, 0, 0) := by decide
/-- P5: the byte at `0x0102` is not the host's. -/
theorem test_next_not_owned :
    step { shown 0 0x0100 [1, 2] with seq := .b8, j := 7, ptr := 0x0102, rem := 1 } = .fault .frameOutOfBounds := by rfl
theorem test_reserved_uops : exec .reservedUop14 ready = .refused (.reservedMicroOperation 14) ∧
    exec .reservedUop15 ready = .refused (.reservedMicroOperation 15) := ⟨rfl, rfl⟩

/-- R31: waiting at `IDLE` takes cycles only. -/
theorem test_waiting : out (step ready) (fun t => (t.seq, t.cyc, t.ev)) = some (.idle, 1, []) := by decide

/-- A reset in the middle of a frame (R260). -/
theorem test_reset_anywhere : out (step { pos .b4 3 58 with agents := [⟨58, .reset true 0x81⟩] })
    (fun t => (t.seq, t.ie, t.port, t.inited, t.cyc)) = some (.idle, true, 0x81, false, 0) := by decide

/-- P2's line: high from `DIROUT` at 0 on (R36), low from the write at 7 on; no value before the direction is set. -/
theorem test_line : portLineAt 0x10 false 0xFF [.dir 0, .ie 3 false, .wr 7 0xEF] 6 = some true ∧
    lineAt 0x10 false [.dir 0, .ie 3 false, .wr 7 0xEF] 7 = some false ∧ lineAt 0x10 false [.ie 3 false] 6 = none := by decide

/-- R260, R44 with the model's choices of logs 2 to 5: the state after reset. -/
theorem reset_inv_memory : State.reset.mem.wf := by decide

/-! ### Witnesses: the hypotheses of the statements can be met, named after the statement -/

/-- Nothing is due when no other agent will move. -/
theorem quiet_none {s : State} (h : s.agents = []) (n : Nat) : s.quietFor n := by
  intro m hm; rw [h] at hm; cases hm

theorem pinReady_of {s : State} (h : s.inited = true ∧ s.maskC = s.cfg.mask ∧ s.portC = s.cfg.portId ∧ s.dir = true) :
    PinReady s := ⟨h.1, h.2.1, h.2.2.1, h.2.2.2⟩

theorem witness_DecodeOfEncodeIsTheInstruction : Instr.wf Params.reference (.showrgb 65535 16383) = true ∧
    Instr.wf Params.reference (.testb 7) = true ∧ Instr.wf Params.reference .next = true := by decide
theorem witness_DecodedInstructionsFitAndReencode :
    decode Params.reference (.cmd 0xFFFFFFFD) = .ok (.showrgb 65535 16383) ∧
    decode Params.reference (.uop 9 7) = .ok (.testb 7) := ⟨rfl, rfl⟩
theorem witness_OpcodeSelectsTheCommand : 65535 < 2 ^ Params.reference.addrW ∧ 16383 < 2 ^ Params.reference.countW := by
  decide
theorem witness_ReservedCommandIsRefused : (shown 3 0 []).seq = .idle ∧ (shown 3 0 []).dueMove = none ∧
    (shown 3 0 []).presents .reservedCommand11 := ⟨rfl, rfl, _, _, rfl, by decide, rfl⟩
theorem witness_ReservedCodesAreNeverIssuedAndRefused : Instr.wf Params.reference (MicroOp.testb 7).instr = true ∧
    uopAt Params.reference .b8 7 = some .next := by decide
theorem witness_NanosecondsConvertWithTwoTruncations : (1000 < 1001 ∧ 0 < 1 ∧ 1 ≤ 1000 ∧ 0 < 1000 ∧ 1000 ≤ 1000) := by decide
theorem witness_NanosecondCornerCases : ns2cyc 124 8 = .ok 0 ∧ 124 < 1000 / 8 ∧ 8 ∣ 1000 := ⟨rfl, by decide, by decide⟩
theorem witness_TimingBelowAMinimumIsNotBuilt :
    (2 < 3 ∨ 2 < 2 ∨ 6 < 6) ∧ (3 < 3 ∨ 1 < 2 ∨ 6 < 6) ∧ (3 < 3 ∨ 2 < 2 ∨ 5 < 6) ∧ (3 ≤ 3 ∧ 2 ≤ 2 ∧ 6 ≤ 6) := by decide
theorem witness_ValidationKeepsDelaysNonNegative :
    tight.w + tight.b ≤ minT1 ∧ tight.w ≤ minT2 ∧ tight.w + tight.adjBit ≤ minT3 ∧ tight.w + tight.adjLast ≤ minT3 ∧
    validate tight.t1 tight.t2 tight.t3 = none ∧ tight.w = 2 ∧ tight.b = 1 ∧ tight.adjLast = 4 ∧ tight.t1 = 3 ∧
    tight.t2 = 2 ∧ tight.t3 = 6 := by decide
theorem witness_PositionOperandsAreTheUnclampedConstants : (6 : BitIndex) ≠ 7 ∧ (7 : BitIndex) = 7 ∧
    Cfg.reference.strategy = .unrolled ∧ Cfg.referenceByteLoop.strategy = .byteLoop := by decide
theorem witness_CommandsAreAcceptedOnlyAtIdle : ready.seq = .idle ∧ (pos .f4 7 0).seq ≠ .idle := by decide
theorem witness_ShowrgbLatchesItsOperandsAfterInit : ready.seq = .idle ∧ ready.inited = true ∧
    65535 < 2 ^ ready.cfg.addrW ∧ 16383 < 2 ^ ready.cfg.countW ∧ State.reset.seq = .idle ∧ State.reset.inited = false := by
  decide
theorem witness_InitSetsUpThePin : State.reset.seq = .idle ∧
    ({ State.reset with cmds := [⟨0, 0⟩], agents := [⟨2, .writePort 1⟩] } : State).presents .init ∧
    ({ State.reset with cmds := [⟨0, 0⟩], agents := [⟨2, .writePort 1⟩] } : State).quietFor
      (Cfg.reference.lDir + Cfg.reference.lCache) :=
  ⟨rfl, ⟨_, _, rfl, by decide, rfl⟩, fun _ h => by injection h with h; subst h; decide⟩
theorem witness_RepeatedInitChangesNoState : (shown 0 0 []).seq = .idle ∧ PinReady (shown 0 0 []) ∧
    (shown 0 0 []).presents .init ∧ (shown 0 0 []).quietFor 2 :=
  ⟨rfl, pinReady_of (by decide), ⟨_, _, rfl, by decide, rfl⟩, quiet_none rfl _⟩
theorem witness_ShowargbIsASilentNoOp : (shown 2 0 []).seq = .idle ∧ (shown 2 0 []).presents .showargb ∧
    (shown 2 0 []).quietFor 1 := ⟨rfl, ⟨_, _, rfl, by decide, rfl⟩, quiet_none rfl _⟩
/-- For DiroutDrivesTheLine, CacheCapturesThePinIdentity, AtomicBracketWritesIe, SnapDerivesHiAndLo, SetloWritesLo,
SethiWritesHi. -/
theorem witness_positions_of_single_instructions :
    (pos .i0 0 0).seq = .i0 ∧ (pos .i1 0 0).seq = .i1 ∧ (pos .f0 0 0).seq = .f0 ∧
    (pos .f1 0 0).seq = .f1 ∧ (pos .f1 0 0).portC = (pos .f1 0 0).cfg.portId ∧
    (pos .f2 0 0).seq = .f2 ∧ (pos .f2 0 0).portC = (pos .f2 0 0).cfg.portId ∧
    (pos .b6 7 0).seq = .b6 ∧ (pos .b6 7 0).portC = (pos .b6 7 0).cfg.portId ∧
    (pos .b1 0 0).seq = .b1 ∧ (pos .b1 0 0).portC = (pos .b1 0 0).cfg.portId := by decide
theorem witness_HiAndLoDifferInThePinOnly : (∃ t, exec .snap (pos .f1 0 3) = .next t) ∧
    (pos .f1 0 3).maskC = (pos .f1 0 3).cfg.mask := ⟨⟨_, rfl⟩, by decide⟩
theorem witness_PortAccessNeedsTheCachedIdentity : ({ ready with portC := 1 } : State).portC ≠ ready.cfg.portId ∧
    ({ ready with portC := 1 } : State).tbit = false := by decide
theorem witness_DelayTakesExactlyNCycles : (pos .b7 7 182).dly = 0 := by decide
theorem witness_TestbReadsOneBit : (pos .b3 0 17).seq = .b3 ∧ 7 < 8 := by decide
theorem witness_CdropDropsOnlyAZero : (pos .b4 0 18).seq = .b4 ∧ (pos .b4 0 18).tbit = false ∧
    (pos .b4 0 18).portC = (pos .b4 0 18).cfg.portId ∧ ({ pos .b4 0 18 with tbit := true } : State).tbit = true := by decide
theorem witness_ShiftAdvancesTheByte : (pos .b8 6 31).seq = .b8 ∧ (pos .b8 6 31).j ≠ 7 ∧
    (pos .b8 6 31).cfg.strategy = .unrolled ∧ (pos .b8 6 31).dueMove = none := by decide
/-- The last byte of the address space, and the empty rest of a frame. -/
theorem witness_FirstAndNextLoadOneByte :
    (pos .f3 0 8).rem = 0 ∧
    ({ shown 0 0xFFFF [7] with ptr := 0xFFFF, rem := 1 } : State).rem ≠ 0 ∧ 0xFFFF + 1 ≤ 2 ^ Cfg.reference.addrW ∧
    (shown 0 0xFFFF [7]).mem.read 0xFFFF = some 7 ∧
    ({ ready with rem := 1 } : State).rem ≠ 0 ∧ ({ ready with rem := 1 } : State).mem.read 0 = none := by decide
theorem witness_LoadsOutsideTheFrameFault :
    (({ ready with rem := 1 } : State).rem ≠ 0 ∧ ({ ready with rem := 1 } : State).mem.read 0 = none) ∧
    (({ shown 0 0xFFFF [7] with ptr := 0xFFFF, rem := 2 } : State).rem ≠ 0 ∧ 2 ^ Cfg.reference.addrW < 0xFFFF + 2) := by
  decide
theorem witness_StepRunsTheIssuedInstruction :
    ((pos .b2 0 12).dueMove = none ∧ (pos .b2 0 12).seq ≠ .idle ∧
      uopAt (pos .b2 0 12).cfg.toParams (pos .b2 0 12).seq (pos .b2 0 12).j = some (.delay 5)) ∧
    ((shown 1 0 []).dueMove = none ∧ (shown 1 0 []).seq = .idle ∧ (shown 1 0 []).presents (.showrgb 0 0)) ∧
    ((pos .b8 6 32).dueMove = none ∧ (pos .b8 6 32).seq ≠ .idle ∧
      uopAt (pos .b8 6 32).cfg.toParams (pos .b8 6 32).seq (pos .b8 6 32).j = none) ∧
    (ready.dueMove = none ∧ ready.seq = .idle ∧ ready.cmds.head? = none) ∧
    ((shown (2 ^ 32) 0 []).dueMove = none ∧ (shown (2 ^ 32) 0 []).cmds = [⟨0, 2 ^ 32⟩] ∧
      decodeCommand (shown (2 ^ 32) 0 []).cfg.toParams (2 ^ 32) = .error .wordTooWide) :=
  ⟨by decide, ⟨rfl, rfl, _, _, rfl, by decide, rfl⟩, by decide, by decide, rfl, rfl, rfl⟩
/-- Every position steps to a next state: the frame's two ends, the bits' choices, `IDLE` waiting and accepting. -/
theorem witness_SequencerAdvancesByTheTable :
    ∀ s ∈ ([.i0, .i1, .a0, .f0, .f1, .f2, .f3, .b1, .b2, .b3, .b4, .b5, .b6, .b7, .f4].map (pos · 0 0)
        ++ [pos .b8 6 0, pos .b8 7 0, { shown 0 0 [1] with seq := .f3, rem := 1 },
          { shown 0 0 [1] with seq := .b8, j := 7, rem := 1 }, ready, shown 0 0 [],
          { ready with agents := [⟨0, .writeIe false⟩] }]),
      ∃ t, step s = .next t := by
  have h : ([Seq.i0, .i1, .a0, .f0, .f1, .f2, .f3, .b1, .b2, .b3, .b4, .b5, .b6, .b7, .f4].map (pos · 0 0)
      ++ [pos .b8 6 0, pos .b8 7 0, { shown 0 0 [1] with seq := .f3, rem := 1 },
        { shown 0 0 [1] with seq := .b8, j := 7, rem := 1 }, ready, shown 0 0 [],
        { ready with agents := [⟨0, .writeIe false⟩] }]).all (fun s => answers (step s)) = true := by decide
  exact fun s hs => answers_next (List.all_eq_true.mp h s hs)
theorem witness_BusyEngineKeepsThePresentedCommands : (pos .b1 0 0).seq ≠ .idle ∧ ∃ t, step (pos .b1 0 0) = .next t :=
  ⟨by decide, _, rfl⟩
/-- For NoInstructionWritesFrameMemory, EachRegisterHasOnlyItsWriters, PortWritesAreHiOrLo, EventsCarryTheIssueCycle and
EveryMicroOperationTakesItsLatency: every micro-operation answers a next state somewhere. -/
theorem witness_statements_about_every_instruction :
    (∃ t, exec .sethi (pos .b1 0 0) = .next t ∧ t.ev = (pos .b1 0 0).ev ++ [.wr 0 0xB5]) ∧
    (∃ t, exec .cdrop (pos .b4 0 0) = .next t ∧ t.ev = (pos .b4 0 0).ev ++ [.wr 0 0xA5]) ∧
    ∀ i ∈ [Instr.init, .showrgb 1 1, .showargb, .nop, .dirout, .cache, .aenter, .aleave, .snap, .setlo, .sethi, .delay 0,
        .testb 7, .cdrop, .shift, .first, .next],
      ∃ t, exec i ready = .next t := by
  have h : [Instr.init, .showrgb 1 1, .showargb, .nop, .dirout, .cache, .aenter, .aleave, .snap, .setlo, .sethi, .delay 0,
      .testb 7, .cdrop, .shift, .first, .next].all (fun i => answers (exec i ready)) = true := by decide
  exact ⟨⟨_, rfl, rfl⟩, ⟨_, rfl, rfl⟩, fun i hi => answers_next (List.all_eq_true.mp h i hi)⟩
/-- A move of each kind is due in the last cycle a step looks at, at `IDLE` and while busy (`DELAY 5` issued at 12); the
addresses are the highest of the frame space and the first beyond it. -/
theorem witness_OtherAgentsMayActOnlyAtIdle :
    (∀ act ∈ [AgentAct.writePort 1, .writeIe true, .writeMem 65535 7, .writeMem 65536 7, .disown 65535, .disown 65536],
      (({ ready with cyc := 5, agents := [⟨5, act⟩] } : State).agents = [⟨5, act⟩] ∧
        5 < 5 + ({ ready with cyc := 5, agents := [⟨5, act⟩] } : State).window ∧ ready.seq = .idle) ∧
      (({ pos .b2 0 12 with agents := [⟨16, act⟩] } : State).agents = [⟨16, act⟩] ∧
        16 < 12 + ({ pos .b2 0 12 with agents := [⟨16, act⟩] } : State).window ∧ (pos .b2 0 12).seq ≠ .idle)) ∧
    65535 < 2 ^ ready.cfg.addrW ∧ 2 ^ ready.cfg.addrW ≤ 65536 := by decide
/-- The last cycle of `DELAY 5`, issued at 12. -/
theorem witness_WritesInsideAMicroOperationBreakTheRun : (pos .b2 0 12).seq ≠ .idle ∧
    uopAt (pos .b2 0 12).cfg.toParams .b2 0 = some (.delay 5) ∧ 16 < 12 + latency (pos .b2 0 12).cfg.toParams (.delay 5) := by
  decide
/-- A reset at a step's issue cycle, and one inside `DELAY 5`, issued at 12. -/
theorem witness_ResetPutsEveryElementToItsValue :
    58 < 58 + ({ pos .b4 3 58 with agents := [⟨58, .reset true 0x81⟩] } : State).window ∧
    16 < 12 + ({ pos .b2 3 12 with agents := [⟨16, .reset false 0⟩] } : State).window := by decide
theorem witness_ResetMeetsTheInvariant : Memory.wf [(0, 1), (65535, 2)] ∧ Memory.inSpace [(0, 1), (65535, 2)] (2 ^ 16) :=
  ⟨by decide, by intro c hc; simp at hc; rcases hc with rfl | rfl <;> decide⟩
/-- States of the invariant: before a raise, before the prologue's write, in the middle of a bit that is 0. -/
theorem inv_pos_b1 : Inv (pos .b1 0 10) := by
  constructor
  case memorySpace => exact Memory.inSpace_nil _
  all_goals decide
theorem inv_pos_f2 : Inv (pos .f2 0 6) := by
  constructor
  case memorySpace => exact Memory.inSpace_nil _
  all_goals decide
theorem inv_pos_b6 : Inv (pos .b6 0 66) := by
  constructor
  case memorySpace => exact Memory.inSpace_nil _
  all_goals decide
theorem witness_EveryStepKeepsTheInvariant : Inv (pos .b6 0 66) ∧ ∃ t, step (pos .b6 0 66) = .next t := ⟨inv_pos_b6, _, rfl⟩
theorem witness_RaiseAndSettleSetTheLine :
    (Inv (pos .b1 0 10) ∧ (pos .b1 0 10).seq = .b1 ∧ ∃ t, exec .sethi (pos .b1 0 10) = .next t) ∧
    (Inv (pos .f2 0 6) ∧ (pos .f2 0 6).seq = .f2 ∧ ∃ t, exec .setlo (pos .f2 0 6) = .next t) ∧
    (Inv (pos .b6 0 66) ∧ (pos .b6 0 66).seq = .b6 ∧ ∃ t, exec .setlo (pos .b6 0 66) = .next t) ∧ State.reset.dir = false :=
  ⟨⟨inv_pos_b1, rfl, _, rfl⟩, ⟨inv_pos_f2, rfl, _, rfl⟩, ⟨inv_pos_b6, rfl, _, rfl⟩, rfl⟩
theorem witness_SymbolCarriesTheBitInPhaseTwo : 7 < Params.reference.t1 ∧ Params.reference.t1 ≤ 15 ∧
    15 < Params.reference.t1 + Params.reference.t2 ∧ Params.reference.t1 + Params.reference.t2 ≤ 21 ∧
    21 < Params.reference.t1 + Params.reference.t2 + Params.reference.t3 := by decide
/-- Its three cases: bits 0..6, the last bit of the last byte, the last bit of another byte. -/
theorem witness_OneBitTakesThePeriod :
    ((pos .b1 6 0).seq = .b1 ∧ (pos .b1 6 0).portC = (pos .b1 6 0).cfg.portId ∧ (pos .b1 6 0).quietFor 23 ∧ (pos .b1 6 0).j ≠ 7) ∧
    ((pos .b1 7 0).j = 7 ∧ (pos .b1 7 0).rem = 0 ∧ (pos .b1 7 0).quietFor 23) ∧
    (({ shown 0 0xFFFF [7] with seq := .b1, j := 7, ptr := 0xFFFF, rem := 1 } : State).rem ≠ 0 ∧
      0xFFFF + 1 ≤ 2 ^ Cfg.reference.addrW ∧ (shown 0 0xFFFF [7]).mem.read 0xFFFF = some 7) :=
  ⟨⟨rfl, rfl, quiet_none rfl _, by decide⟩, ⟨rfl, rfl, quiet_none rfl _⟩, by decide⟩
theorem witness_EmptyFrameOnlyDrivesTheLineLow : (shown 1 0 []).seq = .idle ∧ PinReady (shown 1 0 []) ∧
    (shown 1 0 []).presents (.showrgb 0 0) ∧ (shown 1 0 []).quietFor 9 :=
  ⟨rfl, pinReady_of (by decide), ⟨_, _, rfl, by decide, rfl⟩, quiet_none rfl _⟩

/-- The premises of a frame for a state with one command word presented. -/
theorem framePremises_of {s : State} {word base count : Nat} {bytes : List Byte} (hs : s.seq = .idle) (hr : PinReady s)
    (hc : s.cmds = [⟨0, word⟩]) (hd : decodeCommand s.cfg.toParams word = .ok (.showrgb base count))
    (hm : base + 3 * count ≤ 2 ^ s.cfg.addrW ∧ bytes.length = 3 * count ∧
      ∀ i (h : i < bytes.length), s.mem.read (base + i) = some bytes[i])
    (hq : s.quietFor (frameCycles s.cfg.toParams count)) : FramePremises s base count bytes where
  idle := hs
  ready := hr
  presented := ⟨_, [], hc, Nat.zero_le _, hd⟩
  fits := hm.1
  length := hm.2.1
  owned := hm.2.2
  quiet := hq

/-- P1's frame meets the premises of a frame. -/
theorem framePremises_P1 : FramePremises (shown 0x00040401 0x0100 [0xFF, 0x00, 0x80]) 0x0100 1 [0xFF, 0x00, 0x80] :=
  framePremises_of rfl (pinReady_of (by decide)) rfl rfl (by decide) (quiet_none rfl _)
/-- A frame that ends at the top of the address space. -/
theorem framePremises_top : FramePremises (shown 0x0007FFF5 0xFFFD [1, 2, 3]) 0xFFFD 1 [1, 2, 3] :=
  framePremises_of rfl (pinReady_of (by decide)) rfl rfl (by decide) (quiet_none rfl _)
/-- An empty frame, with another agent's move in the first cycle after it. -/
theorem framePremises_empty : FramePremises { shown 1 0 [] with agents := [⟨9, .writePort 0⟩] } 0 0 [] := by
  refine framePremises_of rfl (pinReady_of (by decide)) rfl rfl (by decide) (fun m h => ?_)
  obtain rfl : _ = m := Option.some.inj h
  decide
theorem framePremises_byteLoop : FramePremises
    { shown 0x00040401 0x0100 [0xFF, 0x00, 0x80] with cfg := Cfg.referenceByteLoop } 0x0100 1 [0xFF, 0x00, 0x80] :=
  framePremises_of rfl (pinReady_of (by decide)) rfl rfl (by decide) (quiet_none rfl _)
/-- P1's frame 1000 cycles later, with the pin's bit high. -/
theorem framePremises_later : FramePremises
    { shown 0x00040401 0x0100 [0xFF, 0x00, 0x80] with cyc := 1000, port := 0xB5 } 0x0100 1 [0xFF, 0x00, 0x80] :=
  framePremises_of rfl (pinReady_of (by decide)) rfl rfl (by decide) (quiet_none rfl _)

/-- For FrameRunsToItsClosedForm, FrameIssuesExactlyItsSchedule, PulseTraceIsTheSymbolsOfTheBits,
FrameReadsEachByteOnceInOrder and FrameKeepsOtherPinsAndInterruptsOff: the frame of program P1, a frame at the top of
memory, a frame of no LED. -/
theorem witness_FrameStatements : ∃ s t u : State, FramePremises s 0x0100 1 [0xFF, 0x00, 0x80] ∧
    FramePremises t 0xFFFD 1 [1, 2, 3] ∧ FramePremises u 0 0 [] :=
  ⟨_, _, _, framePremises_P1, framePremises_top, framePremises_empty⟩
theorem witness_StrategiesAreObservablyEqual : ∃ s : State, FramePremises s 0x0100 1 [0xFF, 0x00, 0x80] ∧
    Cfg.reference.strategy = .unrolled ∧ s.cfg.strategy = .byteLoop ∧
    Cfg.reference.toParams = { s.cfg.toParams with strategy := .unrolled, adjBit := 0 } :=
  ⟨_, framePremises_byteLoop, rfl, rfl, by decide⟩
theorem witness_PulseTraceDependsOnTimingAndBytesOnly : ∃ s t : State, FramePremises s 0x0100 1 [0xFF, 0x00, 0x80] ∧
    FramePremises t 0x0100 1 [0xFF, 0x00, 0x80] ∧ s.cfg ≠ t.cfg ∧ s.cfg.t1 = t.cfg.t1 ∧ s.cfg.t2 = t.cfg.t2 ∧
    s.cfg.t3 = t.cfg.t3 := ⟨_, _, framePremises_P1, framePremises_byteLoop, by decide, rfl, rfl, rfl⟩
theorem witness_SameFrameTwiceGivesTheSameEvents : ∃ s t : State, FramePremises s 0x0100 1 [0xFF, 0x00, 0x80] ∧
    FramePremises t 0x0100 1 [0xFF, 0x00, 0x80] ∧ s.cfg = t.cfg ∧ s.port ≠ t.port ∧
    s.port &&& ~~~s.cfg.mask = t.port &&& ~~~s.cfg.mask ∧ t.cyc = s.cyc + 1000 :=
  ⟨_, _, framePremises_P1, framePremises_later, rfl, by decide, by decide, rfl⟩

end Sys2Proof.Tests
end

section
/-! PROOFS. What a step does, position by position: the instruction it runs while busy and at `IDLE`, and the position each
micro-operation leaves (10_state.md R30, R31). -/

namespace Sys2Proof.Machine

variable {s t : State}

/-! ### What a step runs -/

/-- While busy, a step without another agent's move runs the micro-operation of the position (R30). -/
theorem step_uop {q : Seq} {u : MicroOp} (hd : s.dueMove = none) (hq : s.seq = q) (hb : q ≠ .idle)
    (hu : uopAt s.cfg.toParams q s.j = some u) : step s = exec u.instr s := by
  subst hq
  simp [step, hd, State.issue, State.busy, hb, hu]

/-- At a busy position without a micro-operation, a step ends the bit (R166). -/
theorem step_bitEnd {q : Seq} (hd : s.dueMove = none) (hq : s.seq = q) (hb : q ≠ .idle)
    (hu : uopAt s.cfg.toParams q s.j = none) : step s = .next s.bitEnd := by
  subst hq
  simp [step, hd, State.issue, State.busy, hb, hu]

/-- What can issue at `IDLE`: nothing, the command the host presents, or a number that is no command word
(44_commands.md R210). -/
theorem State.issue_idle (hq : s.seq = .idle) :
    s.issue = .waits ∨ (∃ i, s.issue = .op i ∧ s.presents i) ∨ ∃ e, s.issue = .malformed e := by
  have hb : ¬ s.busy = true := by simp [State.busy, hq]
  unfold State.issue
  rw [if_neg hb]
  split
  · exact .inl rfl
  · rename_i c rest hc
    split
    · exact .inl rfl
    · rename_i hs
      split
      · rename_i i hdec
        exact .inr (.inl ⟨i, rfl, c, rest, hc, Nat.le_of_not_lt hs, hdec⟩)
      · exact .inr (.inr ⟨_, rfl⟩)

/-- Everything a step at `IDLE` can answer when no other agent moves: one cycle passes, or the presented command runs. -/
theorem step_idle_next (hd : s.dueMove = none) (hq : s.seq = .idle) (h : step s = .next t) :
    t = s.tick 1 ∨ ∃ i, s.presents i ∧ exec i s = .next t := by
  obtain hi | ⟨i, hi, hp⟩ | ⟨e, hi⟩ := State.issue_idle hq
  · simp only [step, hd, hi] at h
    cases h
    exact .inl rfl
  · simp only [step, hd, hi] at h
    exact .inr ⟨i, hp, h⟩
  · simp [step, hd, hi] at h

/-- A command word is one of the four commands (30_encoding.md R102). -/
theorem decodeCommand_ok {p : Params} {word : Nat} {i : Instr} (h : decodeCommand p word = .ok i) :
    i = .init ∨ (∃ base count, i = .showrgb base count) ∨ i = .showargb ∨ i = .reservedCommand11 := by
  unfold decodeCommand at h
  split at h
  · cases h
  · split at h <;> cases h <;> simp

/-! ### The position an instruction leaves -/

/-- A port write and the end of its micro-operation: the next position in table order. -/
theorem thenFinish_portWrite_position {n : Nat} {v : Byte} (h : thenFinish n (s.portWrite v) = .next t) :
    t.seq = nextSeq s.seq ∧ t.j = s.j := by
  obtain ⟨u, hu, rfl⟩ := thenFinish_inv h
  obtain ⟨-, rfl⟩ := State.portWrite_next hu
  exact ⟨rfl, rfl⟩

/-- Everything `SNAP` can answer with a next state (41_port_ops.md R143). -/
theorem execSnap_next (h : execSnap s = .next t) : s.portC = s.cfg.portId ∧
    t = { s with hi := s.port ||| s.maskC, lo := s.port &&& ~~~s.maskC }.finish s.cfg.lSnap := by
  by_cases hn : s.portC = s.cfg.portId
  · rw [execSnap, State.portRead_named hn] at h
    cases h
    exact ⟨hn, rfl⟩
  · simp [execSnap, State.portRead, State.portNamed, hn] at h

/-- `CDROP` ends at the next position, whether it drops or not (42_bit_encoder.md R163). -/
theorem execCdrop_position (h : execCdrop s = .next t) : t.seq = nextSeq s.seq ∧ t.j = s.j := by
  unfold execCdrop at h
  split at h
  · exact thenFinish_portWrite_position h
  · cases h
    exact ⟨rfl, rfl⟩

/-- A micro-operation that chooses no position itself goes to the next one in table order and keeps `J`. -/
theorem exec_position_of_table {u : MicroOp} (hu : u ∉ [MicroOp.nop, .aleave, .shift, .first, .next])
    (h : exec u.instr s = .next t) : t.seq = nextSeq s.seq ∧ t.j = s.j := by
  cases u with
  | nop | aleave | shift | first | next => simp at hu
  | dirout | cache | aenter | delay | testb => cases h; exact ⟨rfl, rfl⟩
  | snap => obtain ⟨-, rfl⟩ := execSnap_next h; exact ⟨rfl, rfl⟩
  | setlo | sethi => exact thenFinish_portWrite_position h
  | cdrop => exact execCdrop_position h

/-- A load chooses by `REM`: the end of the frame, or the first bit of the next byte (R167, R168). -/
theorem State.loadByte_position {n : Nat} (h : s.loadByte n = .next t) :
    (s.rem = 0 → t.seq = .f4 ∧ t.j = s.j) ∧ (s.rem ≠ 0 → t.seq = .b1 ∧ t.j = 0) := by
  obtain ⟨h0, rfl⟩ | ⟨v, h0, -, -, rfl⟩ := State.loadByte_next h
  · exact ⟨fun _ => ⟨rfl, rfl⟩, fun hn => absurd h0 hn⟩
  · exact ⟨fun hz => absurd hz h0, fun _ => ⟨rfl, rfl⟩⟩

/-- `J + 1` before the last bit. -/
theorem bumpJ_val {j : BitIndex} (h : j ≠ 7) : (bumpJ j).val = j.val + 1 := by
  revert j
  decide

/-! ### The position a step leaves -/

/-- Away from `IDLE`, `F3` and `B8` a step goes to the next position in table order and keeps `J` (R31). -/
theorem step_position_of_table (hd : s.dueMove = none) (hidle : s.seq ≠ .idle) (hf3 : s.seq ≠ .f3) (hb8 : s.seq ≠ .b8)
    (h : step s = .next t) : t.seq = nextSeq s.seq ∧ t.j = s.j := by
  cases hq : s.seq with
  | idle | f3 | b8 => contradiction
  | a0 | f4 =>
    rw [step_uop hd hq (by decide) rfl] at h
    cases h
    exact ⟨rfl, rfl⟩
  | i0 | i1 | f0 | f1 | f2 | b1 | b2 | b3 | b4 | b5 | b6 | b7 =>
    rw [step_uop hd hq (by decide) rfl] at h
    exact hq ▸ exec_position_of_table (by simp) h

/-- A step at `F3` chooses by `REM`. -/
theorem step_position_f3 (hd : s.dueMove = none) (hq : s.seq = .f3) (h : step s = .next t) :
    (s.rem = 0 → t.seq = .f4 ∧ t.j = s.j) ∧ (s.rem ≠ 0 → t.seq = .b1 ∧ t.j = 0) := by
  rw [step_uop hd hq (by decide) rfl] at h
  exact State.loadByte_position h

/-- A step at `(B8, j)`, `j < 7`, goes to the next bit with either strategy. -/
theorem step_position_b8 (hd : s.dueMove = none) (hq : s.seq = .b8) (hj : s.j ≠ 7) (h : step s = .next t) :
    t.seq = .b1 ∧ t.j.val = s.j.val + 1 := by
  suffices ht : t.seq = .b1 ∧ t.j = bumpJ s.j from ⟨ht.1, ht.2 ▸ bumpJ_val hj⟩
  cases hs : s.cfg.strategy with
  | byteLoop =>
    rw [step_uop (u := .shift) hd hq (by decide) (by simp [uopAt, hj, hs])] at h
    cases h
    exact ⟨rfl, rfl⟩
  | unrolled =>
    rw [step_bitEnd hd hq (by decide) (by simp [uopAt, hj, hs])] at h
    cases h
    exact ⟨rfl, rfl⟩

/-- A step at `(B8, 7)` chooses by `REM`. -/
theorem step_position_b8_last (hd : s.dueMove = none) (hq : s.seq = .b8) (hj : s.j = 7) (h : step s = .next t) :
    (s.rem = 0 → t.seq = .f4 ∧ t.j = s.j) ∧ (s.rem ≠ 0 → t.seq = .b1 ∧ t.j = 0) := by
  rw [step_uop (u := .next) hd hq (by decide) (by simp [uopAt, hj])] at h
  exact State.loadByte_position h

/-- A command that runs at `IDLE` is accepted: `SEQ` takes its first position and its word leaves the port (R210). -/
theorem exec_command_accepts {i : Instr} (hq : s.seq = .idle) (hi : s.presents i) (h : exec i s = .next t) :
    (t.seq = .i0 ∨ t.seq = .f0 ∨ t.seq = .a0) ∧ ∃ c, s.cmds = c :: t.cmds := by
  obtain ⟨c, rest, hc, -, hdec⟩ := hi
  have left : ∃ c, s.cmds = c :: s.cmds.tail := ⟨c, by rw [hc, List.tail_cons]⟩
  obtain rfl | ⟨base, count, rfl⟩ | rfl | rfl := decodeCommand_ok hdec
  · rw [exec, execInit, State.whenIdle_idle _ hq] at h
    cases h
    exact ⟨.inl rfl, left⟩
  · rw [exec, execShowrgb, State.whenIdle_idle _ hq] at h
    split at h <;> cases h
    exact ⟨.inr (.inl rfl), left⟩
  · rw [exec, execShowargb, State.whenIdle_idle _ hq] at h
    cases h
    exact ⟨.inr (.inr rfl), left⟩
  · cases h

/-- A step at `IDLE` stays there and keeps the command port, or accepts a command (R31, R210). -/
theorem step_position_idle (hd : s.dueMove = none) (hq : s.seq = .idle) (h : step s = .next t) :
    t.seq = .idle ∧ t.cmds = s.cmds ∨ (t.seq = .i0 ∨ t.seq = .f0 ∨ t.seq = .a0) ∧ ∃ c, s.cmds = c :: t.cmds := by
  obtain rfl | ⟨i, hi, he⟩ := step_idle_next hd hq h
  · exact .inl ⟨hq, rfl⟩
  · exact .inr (exec_command_accepts hq hi he)

/-- No act of another agent but reset moves the sequencer (R31). -/
theorem State.land_position {act : AgentAct} (hr : ∀ b v, act ≠ .reset b v) (h : s.land act = .next t) :
    t.seq = s.seq ∧ t.j = s.j := by
  obtain ⟨v, -, -, rfl⟩ | ⟨b, -, -, rfl⟩ | ⟨a, v, -, -, -, rfl⟩ | ⟨a, -, -, -, rfl⟩ | ⟨b, v, ha, -⟩ := State.land_next h
  · exact ⟨rfl, rfl⟩
  · exact ⟨rfl, rfl⟩
  · exact ⟨rfl, rfl⟩
  · exact ⟨rfl, rfl⟩
  · exact absurd ha (hr b v)

/-- A step at which another agent's move lands, reset apart, leaves the position. -/
theorem step_position_due {m : AgentMove} {rest : List AgentMove} (hm : s.dueMove = some (m, rest))
    (hr : ∀ b v, m.act ≠ .reset b v) (h : step s = .next t) : t.seq = s.seq ∧ t.j = s.j := by
  rw [step_due hm] at h
  exact State.land_position (s := { s with agents := rest }) hr h

/-- Settles O34: the positions with one successor by `step_position_of_table`, the three choices and `IDLE` by a lemma each,
the other agents by `step_position_due`. -/
theorem sequencerAdvancesByTheTable : Obligations.SequencerAdvancesByTheTable := by
  unfold Obligations.SequencerAdvancesByTheTable
  refine ⟨fun s t hd h => ?_, fun s t m rest => step_position_due⟩
  have table {q : Seq} (hq : s.seq = q) (hidle : q ≠ .idle) (hf3 : q ≠ .f3) (hb8 : q ≠ .b8) :
      t.seq = nextSeq q ∧ t.j = s.j := by
    subst hq
    exact step_position_of_table hd hidle hf3 hb8 h
  refine ⟨?i0, ?i1, ?a0, ?f0, ?f1, ?f2, ?f3, ?b1, ?b2, ?b3, ?b4, ?b5, ?b6, ?b7, ?b8, ?last, ?f4, ?idle⟩
  case f3 =>
    intro hq
    obtain ⟨hend, hload⟩ := step_position_f3 hd hq h
    exact ⟨fun h0 => (hend h0).1, hload⟩
  case b8 => exact fun hq hj => step_position_b8 hd hq hj h
  case last =>
    intro hq hj
    obtain ⟨hend, hload⟩ := step_position_b8_last hd hq hj h
    exact ⟨fun h0 => hj ▸ hend h0, hload⟩
  case idle => exact fun hq => step_position_idle hd hq h
  case i0 | i1 | a0 | f0 | f1 | f2 | f4 => exact fun hq => (table hq (by decide) (by decide) (by decide)).1
  case b1 | b2 | b3 | b4 | b5 | b6 | b7 => exact fun hq => table hq (by decide) (by decide) (by decide)

end Sys2Proof.Machine
end

section
/-! PROOFS. No instruction writes frame memory or the configuration (20_memory.md R64, 10_state.md R37). -/

namespace Sys2Proof.Machine

variable {s t : State}

/-- Everything a port write that ends its micro-operation can answer with a next state (41_port_ops.md R145, R146). -/
theorem thenFinish_portWrite_next {n : Nat} {v : Byte} (h : thenFinish n (s.portWrite v) = .next t) :
    s.portC = s.cfg.portId ∧ t = State.finish n { s with port := v, ev := s.ev ++ [.wr s.cyc v] } := by
  obtain ⟨u, hu, rfl⟩ := thenFinish_inv h
  obtain ⟨hn, rfl⟩ := State.portWrite_next hu
  exact ⟨hn, rfl⟩

/-- Everything `CDROP` can answer with a next state: the port is written with `LO`, or only time passes
(42_bit_encoder.md R163). -/
theorem execCdrop_next (h : execCdrop s = .next t) :
    (s.tbit = false ∧ s.portC = s.cfg.portId ∧
      t = State.finish s.cfg.w { s with port := s.lo, ev := s.ev ++ [.wr s.cyc s.lo] }) ∨
    (s.tbit = true ∧ t = s.finish s.cfg.w) := by
  unfold execCdrop at h
  split at h
  · rename_i hd
    exact .inl ⟨by simpa [State.drops] using hd, thenFinish_portWrite_next h⟩
  · rename_i hd
    cases h
    exact .inr ⟨by simpa [State.drops] using hd, rfl⟩

/-- Everything `SHOWRGB` can answer with a next state: nothing while busy, or the operands latched after `INIT`
(44_commands.md R210, R213, R214). -/
theorem execShowrgb_next {base count : Nat} (h : execShowrgb base count s = .next t) :
    (s.seq ≠ .idle ∧ t = s) ∨ (s.seq = .idle ∧ s.inited = true ∧ t = State.accept .f0
      { s with ptr := frameBase s.cfg.toParams base, rem := frameLength s.cfg.toParams count }) := by
  obtain hb | ⟨hq, h⟩ := State.whenIdle_next h
  · exact .inl hb
  · split at h <;> cases h
    exact .inr ⟨hq, ‹_›, rfl⟩

/-- Every instruction leaves frame memory as a whole and the configuration (R64, R37): a load only reads memory, and no
other operation names it. -/
theorem exec_mem_cfg {i : Instr} (h : exec i s = .next t) : t.mem = s.mem ∧ t.cfg = s.cfg := by
  cases i with
  | reservedCommand11 | reservedUop14 | reservedUop15 => cases h
  | nop | dirout | cache | aenter | aleave | delay | testb | shift => cases h; exact ⟨rfl, rfl⟩
  | init | showargb =>
    obtain ⟨-, rfl⟩ | ⟨-, ht⟩ := State.whenIdle_next h
    · exact ⟨rfl, rfl⟩
    · cases ht; exact ⟨rfl, rfl⟩
  | showrgb => obtain ⟨-, rfl⟩ | ⟨-, -, rfl⟩ := execShowrgb_next h <;> exact ⟨rfl, rfl⟩
  | snap => obtain ⟨-, rfl⟩ := execSnap_next h; exact ⟨rfl, rfl⟩
  | setlo | sethi => obtain ⟨-, rfl⟩ := thenFinish_portWrite_next h; exact ⟨rfl, rfl⟩
  | cdrop => obtain ⟨-, -, rfl⟩ | ⟨-, rfl⟩ := execCdrop_next h <;> exact ⟨rfl, rfl⟩
  | first | next => obtain ⟨-, rfl⟩ | ⟨v, -, -, -, rfl⟩ := State.loadByte_next h <;> exact ⟨rfl, rfl⟩

/-- Settles O36: `exec_mem_cfg`, read at every address. -/
theorem noInstructionWritesFrameMemory : Obligations.NoInstructionWritesFrameMemory := by
  unfold Obligations.NoInstructionWritesFrameMemory
  intro i s t h
  obtain ⟨hmem, hcfg⟩ := exec_mem_cfg h
  exact ⟨fun a => by rw [hmem], hcfg⟩

end Sys2Proof.Machine
end

section
/-! PROOFS. The fields of a command word, read back (30_encoding.md R101, R102, R107). -/

namespace Sys2Proof

variable {p : Params} {op base count : Nat}

/-- The command of an `op` field (R102); only `SHOWRGB` takes the operands (R107). -/
def commandOf (op base count : Nat) : Instr :=
  match op with
  | 0 => .init
  | 1 => .showrgb base count
  | 2 => .showargb
  | _ => .reservedCommand11

/-- A word of `CMD_W` bits stands for the command of its three fields. -/
theorem decodeCommand_of_lt {word : Nat} (h : word < 2 ^ p.cmdW) :
    decodeCommand p word =
      .ok (commandOf (bits word 0 2) (bits word 2 p.addrW) (bits word (2 + p.addrW) p.countW)) := by
  rw [decodeCommand, if_neg (Nat.not_le.mpr h)]
  generalize bits word 0 2 = op
  match op with
  | 0 | 1 | 2 | _ + 3 => rfl

/-- Above `op` stand `base` and, `ADDR_W` bits higher, `count`. -/
theorem commandWord_eq (p : Params) (op base count : Nat) :
    commandWord p op base count = op + 4 * (base + 2 ^ p.addrW * count) := by
  rw [commandWord, Nat.pow_add]
  ring

theorem commandWord_div_four (hop : op < 4) : commandWord p op base count / 2 ^ 2 = base + 2 ^ p.addrW * count := by
  rw [commandWord_eq]
  omega

/-- Above `op` and `base` stands `count`. -/
theorem commandWord_div_base (hop : op < 4) (hbase : base < 2 ^ p.addrW) :
    commandWord p op base count / 2 ^ 2 / 2 ^ p.addrW = count := by
  rw [commandWord_div_four hop, Nat.add_mul_div_left _ _ (Nat.two_pow_pos _), Nat.div_eq_of_lt hbase, Nat.zero_add]

/-- A command word of fields that fit has `CMD_W` bits, whatever its `op`. -/
theorem commandWord_lt (hop : op < 4) (hbase : base < 2 ^ p.addrW) (hcount : count < 2 ^ p.countW) :
    commandWord p op base count < 2 ^ p.cmdW := by
  have hwidth : 2 ^ p.cmdW = 2 ^ p.countW * 2 ^ p.addrW * 2 ^ 2 := by rw [Params.cmdW]; ring
  rw [hwidth, ← Nat.div_lt_iff_lt_mul (Nat.two_pow_pos _), ← Nat.div_lt_iff_lt_mul (Nat.two_pow_pos _),
    commandWord_div_base hop hbase]
  exact hcount

theorem bits_commandWord_op (hop : op < 4) : bits (commandWord p op base count) 0 2 = op := by
  rw [bits, commandWord_eq]
  omega

theorem bits_commandWord_base (hop : op < 4) (hbase : base < 2 ^ p.addrW) :
    bits (commandWord p op base count) 2 p.addrW = base := by
  rw [bits, commandWord_div_four hop, Nat.add_mul_mod_self_left, Nat.mod_eq_of_lt hbase]

theorem bits_commandWord_count (hop : op < 4) (hbase : base < 2 ^ p.addrW) (hcount : count < 2 ^ p.countW) :
    bits (commandWord p op base count) (2 + p.addrW) p.countW = count := by
  rw [bits, Nat.pow_add, ← Nat.div_div_eq_div_mul, commandWord_div_base hop hbase, Nat.mod_eq_of_lt hcount]

/-- The word of three fields that fit decodes to the command of its `op`. -/
theorem decodeCommand_commandWord (hop : op < 4) (hbase : base < 2 ^ p.addrW) (hcount : count < 2 ^ p.countW) :
    decodeCommand p (commandWord p op base count) = .ok (commandOf op base count) := by
  rw [decodeCommand_of_lt (commandWord_lt hop hbase hcount), bits_commandWord_op hop, bits_commandWord_base hop hbase,
    bits_commandWord_count hop hbase hcount]

/-- Settles O3: `decodeCommand_commandWord` at each of the four values of `op`. -/
theorem opcodeSelectsTheCommand : Obligations.OpcodeSelectsTheCommand := by
  unfold Obligations.OpcodeSelectsTheCommand
  intro p base count hbase hcount
  have reads {op : Nat} (hop : op < 4) :
      decodeCommand p (op + base * 4 + count * 2 ^ (p.addrW + 2)) = .ok (commandOf op base count) :=
    Nat.add_comm 2 p.addrW ▸ decodeCommand_commandWord hop hbase hcount
  exact ⟨reads (by decide), reads (by decide), reads (by decide), reads (by decide)⟩

end Sys2Proof
end

section
/-! PROOFS. The levels of a symbol, cycle by cycle (30_encoding.md R90). -/

namespace Sys2Proof.Machine

@[simp] theorem expand_nil : expand [] = [] := rfl

@[simp] theorem expand_cons (level : Bool) (n : Nat) (l : List (Bool × Nat)) :
    expand ((level, n) :: l) = List.replicate n level ++ expand l := rfl

/-- The three phases of a symbol: high, the bit, low. -/
theorem expand_symbol (p : Params) (b : Bool) :
    expand (symbol p b) =
      List.replicate p.t1 true ++ (List.replicate p.t2 b ++ List.replicate p.t3 false) := by
  cases b with
  | false => simp [symbol]
  | true => simp [symbol, ← List.replicate_append_replicate]

/-- Settles O47: each cycle's level is read in its phase of `expand_symbol`. -/
theorem symbolCarriesTheBitInPhaseTwo : Obligations.SymbolCarriesTheBitInPhaseTwo := by
  unfold Obligations.SymbolCarriesTheBitInPhaseTwo
  intro p b
  rw [expand_symbol]
  refine ⟨rfl, ?length, fun i h1 => ?high, fun i h1 h2 => ?bit, fun i h2 h3 => ?low⟩
  case length => simp [Nat.add_assoc]
  case high => rw [List.getElem?_append_left (by simpa using h1), List.getElem?_replicate_of_lt h1]
  case bit =>
    rw [List.getElem?_append_right (by simpa using h1), List.length_replicate,
      List.getElem?_append_left (by rw [List.length_replicate]; omega), List.getElem?_replicate_of_lt (by omega)]
  case low =>
    rw [List.getElem?_append_right (by rw [List.length_replicate]; omega), List.length_replicate,
      List.getElem?_append_right (by rw [List.length_replicate]; omega), List.length_replicate,
      List.getElem?_replicate_of_lt (by omega)]

end Sys2Proof.Machine
end

section
/-! PROOFS. Timing at build time: nanoseconds to cycles, and the delay constants of a buildable configuration
(40_timing_and_delay.md R120, R121, R124). -/

namespace Sys2Proof

variable {ns f n t1 t2 t3 : Nat}

/-! ### Nanoseconds to cycles -/

theorem ns2cyc_out_of_range (hf : f = 0 ∨ 1000 < f) : ns2cyc ns f = .error .clockOutOfRange :=
  if_pos (hf.imp_right Nat.div_eq_of_lt)

theorem ns2cyc_in_range (hpos : 0 < f) (hmax : f ≤ 1000) : ns2cyc ns f = .ok (ns / (1000 / f)) :=
  if_neg (not_or.mpr ⟨hpos.ne', (Nat.div_pos hmax hpos).ne'⟩)

/-- What `NS2CYC` answers is the quotient by the truncated cycle time. -/
theorem ns2cyc_ok (h : ns2cyc ns f = .ok n) : n = ns / (1000 / f) := by
  unfold ns2cyc at h
  split at h <;> cases h
  rfl

/-- A target shorter than a cycle converts to no cycle at all (R121 a). -/
theorem ns2cyc_short (h : ns2cyc ns f = .ok n) (hshort : ns < 1000 / f) : n = 0 :=
  (ns2cyc_ok h).trans (Nat.div_eq_of_lt hshort)

/-- With a whole number of nanoseconds in a cycle only the outer division truncates (R121 c). -/
theorem ns2cyc_of_dvd (h : f ∣ 1000) : ns2cyc ns f = .ok (ns * f / 1000) := by
  have hpos : 0 < f := Nat.pos_of_dvd_of_pos h (by decide)
  have hdiv : ns * f / 1000 = ns / (1000 / f) := by
    calc ns * f / 1000 = ns * f / (1000 / f * f) := by rw [Nat.div_mul_cancel h]
      _ = ns / (1000 / f) := Nat.mul_div_mul_right _ _ hpos
  rw [ns2cyc_in_range hpos (Nat.le_of_dvd (by decide) h), hdiv]

theorem validate_below_minimum (h : t1 < minT1 ∨ t2 < minT2 ∨ t3 < minT3) :
    validate t1 t2 t3 = some .timingInfeasible := if_pos h

/-- Settles O7: the two ranges of the clock, a lemma each. -/
theorem nanosecondsConvertWithTwoTruncations : Obligations.NanosecondsConvertWithTwoTruncations := by
  unfold Obligations.NanosecondsConvertWithTwoTruncations
  exact fun ns f => ⟨ns2cyc_out_of_range, ns2cyc_in_range⟩

/-- Settles O8: (a) by `ns2cyc_short`, 0 being below each minimum; (c) by `ns2cyc_of_dvd`; (b) and (d) compute. -/
theorem nanosecondCornerCases : Obligations.NanosecondCornerCases := by
  unfold Obligations.NanosecondCornerCases
  refine ⟨fun ns f n h hshort => ?short, ⟨rfl, by decide⟩, fun ns f => ns2cyc_of_dvd, fun a b c => rfl⟩
  case short =>
    obtain rfl := ns2cyc_short h hshort
    exact ⟨rfl, fun a b => ⟨validate_below_minimum (.inl (by decide)),
      validate_below_minimum (.inr (.inl (by decide))), validate_below_minimum (.inr (.inr (by decide)))⟩⟩

/-! ### The delay constants -/

/-- No delay argument of a configuration is negative (R125). -/
theorem Cfg.delays_nonneg (c : Cfg) : 0 ≤ c.n1 ∧ 0 ≤ c.n2 ∧ 0 ≤ c.n3 ∧ 0 ≤ c.n3L := by
  obtain ⟨-, -, h⟩ := Params.buildCheck_none c.built
  simpa [Params.delayNegative, and_assoc] using h

end Sys2Proof

namespace Sys2Proof.Machine

variable (c : Cfg)

/-! ### The operands of a configuration, in the integers (30_encoding.md R105) -/

theorem delayPhase1_eq : (delayPhase1 c.toParams : Int) = c.n1 :=
  Int.toNat_of_nonneg c.delays_nonneg.1

theorem delayPhase2_eq : (delayPhase2 c.toParams : Int) = c.n2 :=
  Int.toNat_of_nonneg c.delays_nonneg.2.1

/-- The bits before the last of a byte leave room for `ADJ_BIT`. -/
theorem delayPhase3_eq {j : BitIndex} (hj : j ≠ 7) : (delayPhase3 c.toParams j : Int) = c.n3 := by
  obtain ⟨-, -, h, -⟩ := c.delays_nonneg
  rw [delayPhase3, if_neg hj, Int.toNat_of_nonneg h]

/-- The last bit of a byte leaves room for `ADJ_LAST`. -/
theorem delayPhase3_last : (delayPhase3 c.toParams 7 : Int) = c.n3L := by
  obtain ⟨-, -, -, h⟩ := c.delays_nonneg
  rw [delayPhase3, if_pos rfl, Int.toNat_of_nonneg h]

theorem testedBit_unrolled {p : Params} (h : p.strategy = .unrolled) (j : BitIndex) : testedBit p j = 7 - j.val := by
  rw [testedBit, h]

theorem testedBit_byteLoop {p : Params} (h : p.strategy = .byteLoop) (j : BitIndex) : testedBit p j = 7 := by
  rw [testedBit, h]

/-- Settles O11: each position's operand is the natural of its constant, which `Cfg.delays_nonneg` keeps from being
clamped. -/
theorem positionOperandsAreTheUnclampedConstants : Obligations.PositionOperandsAreTheUnclampedConstants := by
  unfold Obligations.PositionOperandsAreTheUnclampedConstants
  intro c j
  refine ⟨⟨_, rfl, delayPhase1_eq c⟩, ⟨_, rfl, delayPhase2_eq c⟩, fun hj => ⟨_, rfl, delayPhase3_eq c hj⟩, ?last,
    ?unrolled, ?byteLoop⟩
  case last =>
    rintro rfl
    exact ⟨_, rfl, delayPhase3_last c⟩
  case unrolled => exact fun h => by rw [uopAt, testedBit_unrolled h]
  case byteLoop => exact fun h => by rw [uopAt, testedBit_byteLoop h]

end Sys2Proof.Machine
end

section
/-! PROOFS. `DELAY`: the cycles it takes and what it leaves (40_timing_and_delay.md R127, R128). -/

namespace Sys2Proof.Machine

variable {s : State} {n : Nat}

/-- Putting the delay counter to zero changes nothing where it is zero already (10_state.md R29). -/
theorem State.dly_zero_eq_self (h : s.dly = 0) : { s with dly := 0 } = s := by rw [← h]

/-- `DELAY N` issued with the counter at zero only passes `N` cycles and enters the next position. -/
theorem exec_delay (h : s.dly = 0) : exec (.delay n) s = .next (s.finish n) := by
  rw [exec, execDelay, State.dly_zero_eq_self h]

/-- Settles O25: `exec_delay`; `DELAY 0` is the case of no cycle. -/
theorem delayTakesExactlyNCycles : Obligations.DelayTakesExactlyNCycles := by
  unfold Obligations.DelayTakesExactlyNCycles
  exact fun s n h => ⟨exec_delay h, exec_delay h⟩

end Sys2Proof.Machine
end

section
/-! PROOFS. The port operations: the levels `SNAP` derives, what `DIROUT`, `CACHE`, `SETLO` and `SETHI` leave, and which
instructions write the port (41_port_ops.md R141 to R147). -/

namespace Sys2Proof

/-- The pin is a bit of the port (00_scope.md R7). -/
theorem Cfg.mask_ne_zero (c : Cfg) : c.mask ≠ 0 := by
  have bit : ∀ k < 8, 1#8 <<< k ≠ 0 := by decide
  exact bit c.pinBit c.latencies.1

end Sys2Proof

namespace Sys2Proof.Machine

variable {s t : State}

/-! ### A byte with the mask's bits set, and with them cleared -/

section Levels

variable (v m : Byte)

theorem set_and_mask : (v ||| m) &&& m = m := by
  ext k
  simp only [BitVec.getElem_and, BitVec.getElem_or]
  cases m[k] <;> simp

theorem cleared_and_mask : (v &&& ~~~m) &&& m = 0 := by
  rw [BitVec.and_assoc, BitVec.not_and_self]
  exact BitVec.and_zero

theorem set_and_not_mask : (v ||| m) &&& ~~~m = v &&& ~~~m := by
  rw [BitVec.and_or_distrib_right, BitVec.and_not_self]
  exact BitVec.or_zero

theorem cleared_and_not_mask : (v &&& ~~~m) &&& ~~~m = v &&& ~~~m := by
  rw [BitVec.and_assoc, BitVec.and_self]

theorem set_eq_cleared_or : v ||| m = (v &&& ~~~m) ||| m := by
  ext k
  simp only [BitVec.getElem_or, BitVec.getElem_and, BitVec.getElem_not]
  cases m[k] <;> simp

theorem set_xor_cleared : (v ||| m) ^^^ (v &&& ~~~m) = m := by
  ext k
  simp only [BitVec.getElem_xor, BitVec.getElem_or, BitVec.getElem_and, BitVec.getElem_not]
  cases m[k] <;> simp

theorem set_ne_cleared (hm : m ≠ 0) : v ||| m ≠ v &&& ~~~m := by
  intro h
  rw [← BitVec.xor_eq_zero_iff, set_xor_cleared] at h
  exact hm h

end Levels

/-- Settles O21: `SNAP` makes `HI` the port with the mask's bits set and `LO` the port with them cleared. -/
theorem hiAndLoDifferInThePinOnly : Obligations.HiAndLoDifferInThePinOnly := by
  unfold Obligations.HiAndLoDifferInThePinOnly
  intro s t h hmask
  obtain ⟨-, rfl⟩ := execSnap_next h
  rw [State.finish_hi, State.finish_lo]
  simp only [hmask]
  exact ⟨set_and_mask _ _, cleared_and_mask _ _, set_and_not_mask _ _, cleared_and_not_mask _ _, set_eq_cleared_or _ _,
    set_ne_cleared _ _ s.cfg.mask_ne_zero, set_xor_cleared _ _⟩

/-! ### The end of a micro-operation at a known position -/

/-- A micro-operation that ends at position `q`: its cycles pass and the position after `q` is entered. -/
theorem State.finish_at {n : Nat} {q : Seq} (hq : s.seq = q) :
    s.finish n = { s with cyc := s.cyc + n, seq := nextSeq q } := by
  rw [← hq]
  rfl

/-- A write of the named port that ends its micro-operation at position `q`: the port, its event, the cycles and the
position, nothing else. -/
theorem thenFinish_portWrite_at {n : Nat} {v : Byte} {q : Seq} (hn : s.portC = s.cfg.portId) (hq : s.seq = q) :
    thenFinish n (s.portWrite v) =
      .next { s with port := v, ev := s.ev ++ [.wr s.cyc v], cyc := s.cyc + n, seq := nextSeq q } := by
  rw [State.portWrite_named v hn, thenFinish_next]
  exact congrArg _ (State.finish_at hq)

/-- The line of an output pin is its bit of `PORT` (10_state.md R36). -/
theorem State.line_driven (h : s.dir = true) : s.line = some (decide (s.port &&& s.cfg.mask ≠ 0)) := if_pos h

/-- Settles O18: `State.finish_at` for what `DIROUT` leaves, `State.line_driven` for the line. -/
theorem diroutDrivesTheLine : Obligations.DiroutDrivesTheLine := by
  unfold Obligations.DiroutDrivesTheLine
  refine fun s hq => ⟨congrArg _ (State.finish_at (s := s.setDir) hq), fun t h => ?line⟩
  case line =>
    cases h
    exact State.line_driven (s := s.setDir.finish s.cfg.lDir) rfl

/-- Settles O19: `State.finish_at` for the state with the pin's identity cached. -/
theorem cacheCapturesThePinIdentity : Obligations.CacheCapturesThePinIdentity := by
  unfold Obligations.CacheCapturesThePinIdentity
  exact fun s hq => congrArg _
    (State.finish_at (s := { s with maskC := s.cfg.mask, portC := s.cfg.portId, inited := true }) hq)

/-- Settles O22: a port write at either position. -/
theorem setloWritesLo : Obligations.SetloWritesLo := by
  unfold Obligations.SetloWritesLo
  exact fun s hn => ⟨thenFinish_portWrite_at hn, thenFinish_portWrite_at hn⟩

/-- Settles O23: a port write at `B1`. -/
theorem sethiWritesHi : Obligations.SethiWritesHi := by
  unfold Obligations.SethiWritesHi
  exact fun s hq hn => thenFinish_portWrite_at hn hq

/-! ### Who writes the port -/

/-- The instruction `i` writes `v` to the port when it runs in `s`: `SETHI` the level `HI`, `SETLO` and a dropping `CDROP`
the level `LO` (R147). -/
def WritesPort (i : Instr) (s : State) (v : Byte) : Prop :=
  i = .sethi ∧ v = s.hi ∨ (i = .setlo ∨ i = .cdrop ∧ s.tbit = false) ∧ v = s.lo

/-- `t` has the port of `s`, and at most one event more, which is no port write and carries the issue cycle of `s`. -/
structure KeepsPort (s t : State) : Prop where
  port : t.port = s.port
  events : t.ev = s.ev ∨ ∃ e, e.isWr = false ∧ e.cycle = s.cyc ∧ t.ev = s.ev ++ [e]

/-- `v` is in the port of `t`, whose one event more than `s` is its write in the issue cycle of `s`. -/
structure PutsOnPort (s t : State) (v : Byte) : Prop where
  port : t.port = v
  events : t.ev = s.ev ++ [.wr s.cyc v]

theorem KeepsPort.of_eq (hp : t.port = s.port) (he : t.ev = s.ev) : KeepsPort s t := ⟨hp, .inl he⟩

theorem KeepsPort.of_event (e : Event) (hw : e.isWr = false) (hc : e.cycle = s.cyc) (hp : t.port = s.port)
    (he : t.ev = s.ev ++ [e]) : KeepsPort s t := ⟨hp, .inr ⟨e, hw, hc, he⟩⟩

/-- The events of a state that keeps the port do not grow by a port write. -/
theorem KeepsPort.ev_ne_write (h : KeepsPort s t) (c : Nat) (v : Byte) : t.ev ≠ s.ev ++ [.wr c v] := by
  intro he
  obtain ⟨-, h | ⟨e, hw, -, h⟩⟩ := h
  · simp [h] at he
  · rw [h] at he
    obtain rfl : e = .wr c v := by simpa using he
    cases hw

theorem putsOnPort_of_thenFinish {n : Nat} {v : Byte} (h : thenFinish n (s.portWrite v) = .next t) : PutsOnPort s t v := by
  obtain ⟨-, rfl⟩ := thenFinish_portWrite_next h
  exact ⟨rfl, rfl⟩

/-- Everything an instruction can do to the port and the events: it keeps the port, or it is one of the writers of R147
and puts its level there. -/
theorem exec_port_events {i : Instr} (h : exec i s = .next t) :
    KeepsPort s t ∨ ∃ v, WritesPort i s v ∧ PutsOnPort s t v := by
  cases i with
  | reservedCommand11 | reservedUop14 | reservedUop15 => cases h
  | nop | cache | delay | testb | shift => cases h; exact .inl (.of_eq rfl rfl)
  | dirout => cases h; exact .inl (.of_event (.dir s.cyc) rfl rfl rfl rfl)
  | aenter => cases h; exact .inl (.of_event (.ie s.cyc false) rfl rfl rfl rfl)
  | aleave => cases h; exact .inl (.of_event (.ie s.cyc true) rfl rfl rfl rfl)
  | init | showargb =>
    obtain ⟨-, rfl⟩ | ⟨-, ht⟩ := State.whenIdle_next h
    · exact .inl (.of_eq rfl rfl)
    · cases ht; exact .inl (.of_eq rfl rfl)
  | showrgb => obtain ⟨-, rfl⟩ | ⟨-, -, rfl⟩ := execShowrgb_next h <;> exact .inl (.of_eq rfl rfl)
  | snap => obtain ⟨-, rfl⟩ := execSnap_next h; exact .inl (.of_eq rfl rfl)
  | first | next =>
    obtain ⟨-, rfl⟩ | ⟨v, -, -, -, rfl⟩ := State.loadByte_next h
    · exact .inl (.of_eq rfl rfl)
    · exact .inl (.of_event (.rd s.cyc s.ptr) rfl rfl rfl rfl)
  | sethi => exact .inr ⟨s.hi, .inl ⟨rfl, rfl⟩, putsOnPort_of_thenFinish h⟩
  | setlo => exact .inr ⟨s.lo, .inr ⟨.inl rfl, rfl⟩, putsOnPort_of_thenFinish h⟩
  | cdrop =>
    obtain ⟨hbit, -, rfl⟩ | ⟨-, rfl⟩ := execCdrop_next h
    · exact .inr ⟨s.lo, .inr ⟨.inr ⟨rfl, hbit⟩, rfl⟩, rfl, rfl⟩
    · exact .inl (.of_eq rfl rfl)

/-- Settles O38: the two cases of `exec_port_events`; the last event tells which of them it is, and the value written. -/
theorem portWritesAreHiOrLo : Obligations.PortWritesAreHiOrLo := by
  unfold Obligations.PortWritesAreHiOrLo
  intro i s t h
  obtain hkeep | ⟨v, hwriter, hport, hev⟩ := exec_port_events h
  · exact ⟨fun c u he => absurd he (hkeep.ev_ne_write c u), fun _ => hkeep.port⟩
  · refine ⟨fun c u he => ?_, fun hne => absurd hev (hne s.cyc v)⟩
    obtain ⟨-, rfl⟩ : s.cyc = c ∧ v = u := by simpa using hev.symm.trans he
    exact ⟨hport, hwriter⟩

end Sys2Proof.Machine
end

section
/-! PROOFS. The micro-operations of the bit encoder, one rule each (42_bit_encoder.md R162 to R168). -/

namespace Sys2Proof.Machine

variable {s : State} {j : BitIndex} {n : Nat}

/-- Settles O26: `State.finish_at` for the state with the bit tested; the operand of `B3` is `testedBit`. -/
theorem testbReadsOneBit : Obligations.TestbReadsOneBit := by
  unfold Obligations.TestbReadsOneBit
  refine ⟨fun s k hq _ => congrArg _ (State.finish_at (s := { s with tbit := bitTest s.cur k }) hq), fun p j => ?operand⟩
  case operand =>
    cases hp : p.strategy with
    | unrolled => rw [if_pos rfl, uopAt, testedBit_unrolled hp]
    | byteLoop => rw [if_neg (by decide), uopAt, testedBit_byteLoop hp]

/-- `CDROP` drops the line in a bit that is 0 (R163). -/
theorem exec_cdrop_zero (hbit : s.tbit = false) : exec .cdrop s = thenFinish s.cfg.w (s.portWrite s.lo) := by
  rw [exec, execCdrop, if_pos (by simp [State.drops, hbit])]

/-- `CDROP` only passes its cycles in a bit that is 1 (R163). -/
theorem exec_cdrop_one (hbit : s.tbit = true) : exec .cdrop s = .next (s.finish s.cfg.w) := by
  rw [exec, execCdrop, if_neg (by simp [State.drops, hbit]), thenFinish_next]

/-- Settles O27: a port write for a 0, the end of the micro-operation alone for a 1. -/
theorem cdropDropsOnlyAZero : Obligations.CdropDropsOnlyAZero := by
  unfold Obligations.CdropDropsOnlyAZero
  refine fun s hq => ⟨fun hbit hn => ?zero, fun hbit => ?one⟩
  case zero => rw [exec_cdrop_zero hbit, thenFinish_portWrite_at hn hq, nextSeq]
  case one => rw [exec_cdrop_one hbit, State.finish_at hq, nextSeq]

/-! ### The position `B8` (10_state.md R30) -/

theorem bumpJ_of_ne (h : j ≠ 7) : bumpJ j = j + 1 := if_pos (Fin.val_lt_last h)

theorem uopAt_b8_last (p : Params) : uopAt p .b8 7 = some .next := rfl

theorem uopAt_b8_byteLoop {p : Params} (hp : p.strategy = .byteLoop) (hj : j ≠ 7) : uopAt p .b8 j = some .shift := by
  rw [uopAt, if_neg hj, hp]

theorem uopAt_b8_unrolled {p : Params} (hp : p.strategy = .unrolled) (hj : j ≠ 7) : uopAt p .b8 j = none := by
  rw [uopAt, if_neg hj, hp]

/-- `SHIFT` before the last bit (R166). -/
theorem exec_shift (hj : s.j ≠ 7) :
    exec .shift s = .next { s with cur := s.cur <<< 1, j := s.j + 1, cyc := s.cyc + s.cfg.adjBit, seq := .b1 } := by
  rw [exec, execShift, bumpJ_of_ne hj]
  rfl

/-- The end of an unrolled bit before the last (R166). -/
theorem State.bitEnd_of_ne (hj : s.j ≠ 7) : s.bitEnd = { s with j := s.j + 1, seq := .b1 } := by
  rw [State.bitEnd, bumpJ_of_ne hj]

/-- Settles O28: `exec_shift`, and `State.bitEnd_of_ne` where nothing issues. -/
theorem shiftAdvancesTheByte : Obligations.ShiftAdvancesTheByte := by
  unfold Obligations.ShiftAdvancesTheByte
  refine fun s hq hj => ⟨exec_shift hj, fun hp hd => ?unrolled⟩
  case unrolled => rw [step_bitEnd hd hq (by decide) (uopAt_b8_unrolled hp hj), State.bitEnd_of_ne hj]

/-! ### Loads -/

/-- A load with a byte left faults where the host does not own the byte or the frame wraps the address space
(20_memory.md R63, R73). -/
theorem State.loadByte_outside (h0 : s.rem ≠ 0) (h : s.mem.read s.ptr = none ∨ 2 ^ s.cfg.addrW < s.ptr + s.rem) :
    s.loadByte n = .fault .frameOutOfBounds := by
  unfold State.loadByte
  rw [if_neg h0]
  split
  · rfl
  · rename_i hwrap
    rw [h.resolve_right hwrap]

/-- Settles O29: the three cases of a load, each for both latencies. -/
theorem firstAndNextLoadOneByte : Obligations.FirstAndNextLoadOneByte := by
  unfold Obligations.FirstAndNextLoadOneByte
  exact fun s => ⟨fun h0 hv => ⟨State.loadByte_outside h0 (.inl hv), State.loadByte_outside h0 (.inl hv)⟩,
    fun h0 => ⟨State.loadByte_empty _ h0, State.loadByte_empty _ h0⟩,
    fun v h0 hw hv => ⟨State.loadByte_some _ h0 hw hv, State.loadByte_some _ h0 hw hv⟩⟩

end Sys2Proof.Machine
end

section
/-! PROOFS. One bit: its eight positions, phase by phase, with the cycle of every issue and the port writes
(42_bit_encoder.md R160, R169, R170). -/

namespace Sys2Proof.Machine

/-! ### The phases fill their cycles (40_timing_and_delay.md R124) -/

theorem phase1_cycles (c : Cfg) : c.w + delayPhase1 c.toParams + c.b = c.t1 := by
  have h := delayPhase1_eq c
  rw [Params.n1] at h
  omega

theorem phase2_cycles (c : Cfg) : c.w + delayPhase2 c.toParams = c.t2 := by
  have h := delayPhase2_eq c
  rw [Params.n2] at h
  omega

theorem phase3_cycles (c : Cfg) (j : BitIndex) : c.w + delayPhase3 c.toParams j + c.overhead j = c.t3 := by
  by_cases hj : j = 7
  · have h := delayPhase3_last c
    rw [Params.n3L] at h
    rw [hj, Params.overhead, if_pos rfl]
    omega
  · have h := delayPhase3_eq c hj
    rw [Params.n3] at h
    rw [Params.overhead, if_neg hj]
    omega

variable {s t u : State} {a b k n : Nat} {q : Seq} {l m : List TraceEntry}

/-! ### Steps with no other agent moving -/

/-- Later, with the same moves still to come, nobody moves for what is left of the quiet time. -/
theorem State.quietFor.within (h : s.quietFor n) (ha : t.agents = s.agents) (hc : t.cyc + k ≤ s.cyc + n) :
    t.quietFor k := fun m hm => hc.trans (h m (ha ▸ hm))

/-- `k` steps from `s` issue exactly `l` and end in `t`. -/
structure RunsTo (k : Nat) (s : State) (l : List TraceEntry) (t : State) : Prop where
  run : run k s = .next t
  trace : trace k s = l

theorem RunsTo.trans (h : RunsTo a s l t) (h' : RunsTo b t m u) : RunsTo (a + b) s (l ++ m) u :=
  ⟨(run_add h.run).trans h'.run, by rw [trace_add h.run, h.trace, h'.trace]⟩

/-- One step runs the micro-operation of a busy position, when nobody else moves in its cycles (10_state.md R30). -/
theorem RunsTo.uop {v : MicroOp} (hq : s.seq = q) (hb : q ≠ .idle) (hu : uopAt s.cfg.toParams q s.j = some v)
    (hquiet : s.quietFor (max 1 (latency s.cfg.toParams v.instr))) (he : exec v.instr s = .next t) :
    RunsTo 1 s [(s.cyc, v.instr)] t := by
  subst hq
  have hd : s.dueMove = none := State.dueMove_none (State.window_uop hb hu ▸ hquiet)
  have hi : s.issue = .op v.instr := by simp [State.issue, State.busy, hb, hu]
  have hstep : step s = .next t := (step_uop hd rfl hb hu).trans he
  exact ⟨run_succ 0 hstep, by simp [Machine.trace, State.issued, hd, hi, hstep]⟩

/-- One step at a busy position without a micro-operation ends the bit and issues nothing (R166). -/
theorem RunsTo.bitEnd (hq : s.seq = q) (hb : q ≠ .idle) (hu : uopAt s.cfg.toParams q s.j = none) (hquiet : s.quietFor 1) :
    RunsTo 1 s [] s.bitEnd := by
  subst hq
  have hi : s.issue = .bitEnd := by simp [State.issue, State.busy, hb, hu]
  have hw : s.window = 1 := by rw [State.window, hi]
  have hd : s.dueMove = none := State.dueMove_none (hw ▸ hquiet)
  have hstep : step s = .next s.bitEnd := step_bitEnd hd rfl hb hu
  exact ⟨run_succ 0 hstep, by simp [Machine.trace, State.issued, hd, hi, hstep]⟩

/-- One step at a position of `DELAY n`. -/
theorem RunsTo.delay (hq : s.seq = q) (hb : q ≠ .idle) (hu : uopAt s.cfg.toParams q s.j = some (.delay n))
    (hquiet : s.quietFor (max 1 n)) :
    RunsTo 1 s [(s.cyc, .delay n)] { s with dly := 0, cyc := s.cyc + n, seq := nextSeq q } :=
  .uop hq hb hu hquiet (congrArg _ (State.finish_at (s := { s with dly := 0 }) hq))

/-! ### The three phases -/

/-- Phase 1: the raise, the delay, and the test of the bit in the last `B` cycles. -/
theorem runsTo_phase1 (hq : s.seq = .b1) (hn : s.portC = s.cfg.portId) (hquiet : s.quietFor s.cfg.t1) :
    RunsTo 3 s
      [(s.cyc, .sethi), (s.cyc + s.cfg.w, .delay (delayPhase1 s.cfg.toParams)),
        (s.cyc + s.cfg.t1 - s.cfg.b, .testb (testedBit s.cfg.toParams s.j))]
      { s with port := s.hi, ev := s.ev ++ [.wr s.cyc s.hi], dly := 0,
               tbit := s.cur.getLsbD (testedBit s.cfg.toParams s.j), cyc := s.cyc + s.cfg.t1, seq := .b4 } := by
  obtain ⟨-, -, -, hb, -⟩ := s.cfg.latencies
  have hcyc := phase1_cycles s.cfg
  have raise := RunsTo.uop (v := .sethi) hq (by decide) rfl
    (hquiet.within rfl (by simp only [MicroOp.instr, latency]; omega)) (thenFinish_portWrite_at hn hq)
  have wait := raise.trans (.delay (q := .b2) rfl (by decide) rfl (hquiet.within rfl (by dsimp only; omega)))
  have test := wait.trans (.uop (v := .testb (testedBit s.cfg.toParams s.j)) (q := .b3) rfl (by decide) rfl
    (hquiet.within rfl (by simp only [MicroOp.instr, latency]; omega)) rfl)
  have hissue : s.cyc + s.cfg.t1 - s.cfg.b = s.cyc + s.cfg.w + delayPhase1 s.cfg.toParams := by omega
  have hend : s.cyc + s.cfg.t1 = s.cyc + s.cfg.w + delayPhase1 s.cfg.toParams + s.cfg.b := by omega
  rw [hissue, hend]
  exact test

/-- Phase 2: the port is dropped to `LO` in a bit that is 0 and left in a bit that is 1, then the delay. -/
theorem runsTo_phase2 (hq : s.seq = .b4) (hn : s.portC = s.cfg.portId) (hquiet : s.quietFor (s.cfg.t2 + 1)) :
    RunsTo 2 s [(s.cyc, .cdrop), (s.cyc + s.cfg.w, .delay (delayPhase2 s.cfg.toParams))]
      { s with port := if s.tbit then s.port else s.lo, ev := s.ev ++ if s.tbit then [] else [.wr s.cyc s.lo], dly := 0,
               cyc := s.cyc + s.cfg.t2, seq := .b6 } := by
  have hcyc := phase2_cycles s.cfg
  have hdrop : exec .cdrop s = .next { s with
      port := if s.tbit then s.port else s.lo, ev := s.ev ++ if s.tbit then [] else [.wr s.cyc s.lo],
      cyc := s.cyc + s.cfg.w, seq := .b5 } := by
    obtain ⟨hzero, hone⟩ := cdropDropsOnlyAZero s hq
    cases hbit : s.tbit with
    | false => simpa [hbit] using hzero hbit hn
    | true => simpa [hbit] using hone hbit
  have drop := RunsTo.uop (v := .cdrop) hq (by decide) rfl
    (hquiet.within rfl (by simp only [MicroOp.instr, latency]; omega)) hdrop
  have wait := drop.trans (.delay (q := .b5) rfl (by decide) rfl (hquiet.within rfl (by dsimp only; omega)))
  rw [← hcyc, ← Nat.add_assoc]
  exact wait

/-- Phase 3: the port is `LO`, then the delay, which leaves the cycles of the loop work. -/
theorem runsTo_phase3 (hq : s.seq = .b6) (hn : s.portC = s.cfg.portId) (hquiet : s.quietFor s.cfg.t3) :
    RunsTo 2 s [(s.cyc, .setlo), (s.cyc + s.cfg.w, .delay (delayPhase3 s.cfg.toParams s.j))]
      { s with port := s.lo, ev := s.ev ++ [.wr s.cyc s.lo], dly := 0,
               cyc := s.cyc + s.cfg.t3 - s.cfg.overhead s.j, seq := .b8 } := by
  obtain ⟨-, -, hw, -⟩ := s.cfg.latencies
  obtain ⟨-, -, h3⟩ := s.cfg.thresholds
  have hcyc := phase3_cycles s.cfg s.j
  have settle := RunsTo.uop (v := .setlo) hq (by decide) rfl
    (hquiet.within rfl (by simp only [MicroOp.instr, latency]; omega)) (thenFinish_portWrite_at hn hq)
  have wait := settle.trans (.delay (q := .b7) rfl (by decide) rfl (hquiet.within rfl (by dsimp only; omega)))
  have hend : s.cyc + s.cfg.t3 - s.cfg.overhead s.j = s.cyc + s.cfg.w + delayPhase3 s.cfg.toParams s.j := by omega
  rw [hend]
  exact wait

/-! ### The bit -/

/-- The bit of `CUR` that a bit beginning in `s` sends (R162). -/
def State.sentBit (s : State) : Bool := s.cur.getLsbD (testedBit s.cfg.toParams s.j)

/-- The micro-operations of the bit that begins in `s`, with their issue cycles. -/
def State.schedule (s : State) : List TraceEntry := bitSchedule s.cfg.toParams s.cyc s.j

/-- The state at `(B8, j)` of the bit that begins in `s`: its port writes are done and the loop work is left. -/
def State.bitSent (s : State) : State :=
  { s with tbit := s.sentBit, port := s.lo, ev := s.ev ++ bitEvents s.cfg.toParams s.hi s.lo s.cyc s.sentBit, dly := 0,
           cyc := s.cyc + s.cfg.period - s.cfg.overhead s.j, seq := .b8 }

/-- The port writes of a bit, phase by phase (R170). -/
theorem bitEvents_eq (p : Params) (hi lo : Byte) (c : Nat) (bit : Bool) :
    bitEvents p hi lo c bit = [.wr c hi] ++ (if bit then [] else [.wr (c + p.t1) lo]) ++ [.wr (c + p.t1 + p.t2) lo] := by
  cases bit <;> rfl

/-- The three phases of a bit, and the part of its schedule that they issue. -/
theorem runsTo_bitSent (hq : s.seq = .b1) (hn : s.portC = s.cfg.portId) (hquiet : s.quietFor s.cfg.period) :
    RunsTo 7 s (s.schedule.take 7) s.bitSent := by
  obtain ⟨-, -, h3⟩ := s.cfg.thresholds
  have hperiod : s.cfg.period = s.cfg.t1 + s.cfg.t2 + s.cfg.t3 := rfl
  have high := runsTo_phase1 hq hn (hquiet.within rfl (by omega))
  have data := high.trans (runsTo_phase2 rfl hn (hquiet.within rfl (by dsimp only; omega)))
  have low := data.trans (runsTo_phase3 rfl hn (hquiet.within rfl (by dsimp only; omega)))
  simp only [State.bitSent, bitEvents_eq, hperiod, ← Nat.add_assoc, ← List.append_assoc]
  exact low

@[simp] theorem State.bitSent_cfg (s : State) : s.bitSent.cfg = s.cfg := rfl

theorem State.bitSent_cyc_add_overhead (s : State) : s.bitSent.cyc + s.cfg.overhead s.j = s.cyc + s.cfg.period := by
  have hcyc := phase3_cycles s.cfg s.j
  have hperiod : s.cfg.period = s.cfg.t1 + s.cfg.t2 + s.cfg.t3 := rfl
  have hsent : s.bitSent.cyc = s.cyc + s.cfg.period - s.cfg.overhead s.j := rfl
  omega

/-- Before the last bit of a byte, `ADJ_BIT` cycles are left at `B8`. -/
theorem State.bitSent_cyc_add_adjBit (hj : s.j ≠ 7) : s.bitSent.cyc + s.cfg.adjBit = s.cyc + s.cfg.period := by
  rw [← s.bitSent_cyc_add_overhead, Params.overhead, if_neg hj]

/-- In the last bit of a byte, `ADJ_LAST` cycles are left at `B8`. -/
theorem State.bitSent_cyc_add_adjLast (hj : s.j = 7) : s.bitSent.cyc + s.cfg.adjLast = s.cyc + s.cfg.period := by
  rw [← s.bitSent_cyc_add_overhead, Params.overhead, if_pos hj]

/-- A whole bit, given the step at its `B8` and what is left of its schedule there. -/
theorem runsTo_bit (hq : s.seq = .b1) (hn : s.portC = s.cfg.portId) (hquiet : s.quietFor s.cfg.period)
    (hlast : RunsTo 1 s.bitSent (s.schedule.drop 7) t) : RunsTo 8 s s.schedule t := by
  have h := (runsTo_bitSent hq hn hquiet).trans hlast
  rwa [List.take_append_drop] at h

/-- What is left of `CUR` for the bits after the one that begins in `s` (R166). -/
def State.curLeft (s : State) : Byte :=
  match s.cfg.strategy with
  | .unrolled => s.cur
  | .byteLoop => s.cur <<< 1

/-- The state in which the next bit of the same byte begins. -/
def State.nextBit (s : State) : State :=
  { s.bitSent with cur := s.curLeft, j := s.j + 1, cyc := s.cyc + s.cfg.period, seq := .b1 }

/-- A bit before the last of its byte goes to the next bit, with either strategy (R166). -/
theorem runsTo_nextBit (hq : s.seq = .b1) (hn : s.portC = s.cfg.portId) (hquiet : s.quietFor (s.cfg.period + 1))
    (hj : s.j ≠ 7) : RunsTo 8 s s.schedule s.nextBit := by
  have hcyc := State.bitSent_cyc_add_adjBit hj
  refine runsTo_bit hq hn (hquiet.within rfl (by omega)) ?_
  cases hp : s.cfg.strategy with
  | byteLoop =>
    have hrest : s.schedule.drop 7 = [(s.bitSent.cyc, .shift)] := by
      simp [State.schedule, bitSchedule, hj, hp, State.bitSent]
    have hnext : exec .shift s.bitSent = .next s.nextBit := by
      rw [exec_shift (s := s.bitSent) hj, State.nextBit, State.curLeft, hp, ← hcyc]
      rfl
    rw [hrest]
    exact .uop (v := .shift) (q := .b8) rfl (by decide) (uopAt_b8_byteLoop hp hj)
      (hquiet.within rfl (by simp only [MicroOp.instr, latency, State.bitSent_cfg]; omega)) hnext
  | unrolled =>
    have hrest : s.schedule.drop 7 = [] := by simp [State.schedule, bitSchedule, hj, hp]
    have hnext : s.bitSent.bitEnd = s.nextBit := by
      rw [State.bitEnd_of_ne (s := s.bitSent) hj, State.nextBit, State.curLeft, hp, ← hcyc, s.cfg.adjBit_unrolled hp]
      rfl
    rw [hrest, ← hnext]
    exact .bitEnd (q := .b8) rfl (by decide) (uopAt_b8_unrolled hp hj) (hquiet.within rfl (by omega))

/-- The last bit of a byte ends with `NEXT` (R167). -/
theorem runsTo_lastBit (hq : s.seq = .b1) (hn : s.portC = s.cfg.portId) (hquiet : s.quietFor (s.cfg.period + 1))
    (hj : s.j = 7) (hload : s.bitSent.loadByte s.cfg.adjLast = .next t) : RunsTo 8 s s.schedule t := by
  have hcyc := State.bitSent_cyc_add_adjLast hj
  have hrest : s.schedule.drop 7 = [(s.bitSent.cyc, .next)] := by simp [State.schedule, bitSchedule, hj, State.bitSent]
  refine runsTo_bit hq hn (hquiet.within rfl (by omega)) ?_
  rw [hrest]
  exact .uop (v := .next) (q := .b8) rfl (by decide) (hj ▸ uopAt_b8_last _)
    (hquiet.within rfl (by simp only [MicroOp.instr, latency, State.bitSent_cfg]; omega)) hload

/-- The state in which the next byte, `v`, begins. -/
def State.nextByte (v : Byte) (s : State) : State :=
  { s.bitSent with cur := v, ptr := (s.ptr + 1) % 2 ^ s.cfg.addrW, rem := s.rem - 1, j := 0, seq := .b1,
                   ev := s.bitSent.ev ++ [.rd (s.cyc + s.cfg.period - s.cfg.adjLast) s.ptr], cyc := s.cyc + s.cfg.period }

/-- The last bit of the last byte goes to the end of the frame. -/
theorem runsTo_frameEnd (hq : s.seq = .b1) (hn : s.portC = s.cfg.portId) (hquiet : s.quietFor (s.cfg.period + 1))
    (hj : s.j = 7) (h0 : s.rem = 0) :
    RunsTo 8 s s.schedule { s.bitSent with cyc := s.cyc + s.cfg.period, seq := .f4 } := by
  rw [← State.bitSent_cyc_add_adjLast hj]
  exact runsTo_lastBit hq hn hquiet hj (State.loadByte_empty (s := s.bitSent) _ h0)

/-- The last bit of another byte reads the next byte `ADJ_LAST` cycles before its end and goes to the first bit of it. -/
theorem runsTo_nextByte {v : Byte} (hq : s.seq = .b1) (hn : s.portC = s.cfg.portId)
    (hquiet : s.quietFor (s.cfg.period + 1)) (hj : s.j = 7) (h0 : s.rem ≠ 0) (hw : s.ptr + s.rem ≤ 2 ^ s.cfg.addrW)
    (hv : s.mem.read s.ptr = some v) : RunsTo 8 s s.schedule (s.nextByte v) := by
  have hcyc := State.bitSent_cyc_add_adjLast hj
  have hload := State.loadByte_some (s := s.bitSent) s.cfg.adjLast h0 hw hv
  rw [hcyc] at hload
  rw [State.nextByte, ← Nat.eq_sub_of_add_eq hcyc]
  exact runsTo_lastBit hq hn hquiet hj hload

/-- Settles O48: each case is the lemma of its kind of bit, and the claims about the end state are read off its fields. -/
theorem oneBitTakesThePeriod : Obligations.OneBitTakesThePeriod := by
  unfold Obligations.OneBitTakesThePeriod
  refine fun s hq hn hquiet => ⟨fun hj => ?inner, fun hj h0 => ?frameEnd, fun v hj h0 hw hv => ?nextByte⟩
  case inner =>
    obtain ⟨hrun, htrace⟩ := runsTo_nextBit hq hn hquiet hj
    have hcount : (s.j + 1).val = s.j.val + 1 := bumpJ_of_ne hj ▸ bumpJ_val hj
    exact ⟨_, hrun, rfl, hcount, rfl, rfl, htrace, fun hp => by rw [State.nextBit, State.curLeft, hp],
      fun hp => by rw [State.nextBit, State.curLeft, hp], rfl, rfl, rfl, rfl, rfl, rfl⟩
  case frameEnd =>
    obtain ⟨hrun, htrace⟩ := runsTo_frameEnd hq hn hquiet hj h0
    exact ⟨_, hrun, rfl, rfl, rfl, htrace, rfl⟩
  case nextByte =>
    obtain ⟨hrun, htrace⟩ := runsTo_nextByte hq hn hquiet hj h0 hw hv
    exact ⟨_, hrun, rfl, rfl, rfl, rfl, rfl, htrace, rfl⟩

end Sys2Proof.Machine
end

section
/-! PROOFS. The prologue of a frame and its epilogue: the acceptance of `SHOWRGB`, the bracket's `AENTER` and `ALEAVE`, the
snapshot, the prologue's write and the first load (43_frame_transmitter.md R190 to R195). -/

namespace Sys2Proof.Machine

variable {s t : State} {q : Seq} {base count : Nat}

/-! ### The command -/

/-- The operands of a decoded `SHOWRGB` fit their fields (30_encoding.md R101). -/
theorem decodeCommand_showrgb_fits {p : Params} {word : Nat} (h : decodeCommand p word = .ok (.showrgb base count)) :
    base < 2 ^ p.addrW ∧ count < 2 ^ p.countW := by
  have field_lt (lo len : Nat) : bits word lo len < 2 ^ len := Nat.mod_lt _ (Nat.two_pow_pos len)
  unfold decodeCommand at h
  split at h
  · cases h
  · split at h <;> cases h
    exact ⟨field_lt _ _, field_lt _ _⟩

/-- The operands of a presented `SHOWRGB` fit their fields. -/
theorem State.presents.fits (h : s.presents (.showrgb base count)) : base < 2 ^ s.cfg.addrW ∧ count < 2 ^ s.cfg.countW :=
  let ⟨_, _, _, _, hdec⟩ := h
  decodeCommand_showrgb_fits hdec

/-- One step at `IDLE` runs the presented command, when nobody else moves (44_commands.md R210). -/
theorem RunsTo.command {i : Instr} (hq : s.seq = .idle) (hi : s.presents i)
    (hquiet : s.quietFor (max 1 (latency s.cfg.toParams i))) (he : exec i s = .next t) : RunsTo 1 s [(s.cyc, i)] t := by
  obtain ⟨c, rest, hc, hsince, hdec⟩ := hi
  have hissue : s.issue = .op i := by simp [State.issue, State.busy, hq, hc, Nat.not_lt.mpr hsince, hdec]
  have hw : s.window = max 1 (latency s.cfg.toParams i) := by rw [State.window, hissue]
  have hd : s.dueMove = none := State.dueMove_none (hw ▸ hquiet)
  have hstep : step s = .next t := by simpa [step, hd, hissue] using he
  exact ⟨run_succ 0 hstep, by simp [Machine.trace, State.issued, hd, hissue, hstep]⟩

/-- `SHOWRGB` after `INIT`, with operands that fit: they are latched unwrapped, and the frame starts (R213). -/
theorem exec_showrgb (hq : s.seq = .idle) (hi : s.inited = true) (hbase : base < 2 ^ s.cfg.addrW)
    (hcount : count < 2 ^ s.cfg.countW) : exec (.showrgb base count) s =
      .next { s with ptr := base, rem := 3 * count, seq := .f0, cmds := s.cmds.tail } := by
  have hlen : frameLength s.cfg.toParams count = 3 * count := Nat.mod_eq_of_lt (by rw [Nat.pow_add]; omega)
  rw [exec, execShowrgb, State.whenIdle_idle _ hq, if_pos hi, hlen, frameBase, Nat.mod_eq_of_lt hbase]
  rfl

/-! ### The micro-operations around the bytes -/

/-- `AENTER` at position `q` (R191). -/
theorem exec_aenter_at (hq : s.seq = q) : exec .aenter s = .next
    { s with ie := false, ev := s.ev ++ [.ie s.cyc false], cyc := s.cyc + s.cfg.lEnter, seq := nextSeq q } :=
  congrArg _ (State.finish_at (s := s.writeIe false) hq)

/-- `SNAP` of the named port at position `q` (41_port_ops.md R143). -/
theorem exec_snap_at (hn : s.portC = s.cfg.portId) (hq : s.seq = q) : exec .snap s = .next
    { s with hi := s.port ||| s.maskC, lo := s.port &&& ~~~s.maskC, cyc := s.cyc + s.cfg.lSnap, seq := nextSeq q } := by
  rw [exec, execSnap, State.portRead_named hn]
  exact congrArg _ (State.finish_at (s := { s with hi := s.port ||| s.maskC, lo := s.port &&& ~~~s.maskC }) hq)

/-- One step at `F3`, given the load of `FIRST`. -/
theorem runsTo_first (hq : s.seq = .f3) (hquiet : s.quietFor s.cfg.lLoad) (hload : s.loadByte s.cfg.lLoad = .next t) :
    RunsTo 1 s [(s.cyc, .first)] t := by
  obtain ⟨-, -, -, -, -, -, -, -, -, -, -, hpos, -⟩ := s.cfg.latencies
  exact .uop (v := .first) hq (by decide) rfl (hquiet.within rfl (by simp only [MicroOp.instr, latency]; omega)) hload

/-- One step at `F4` ends the frame (R192). -/
theorem runsTo_leave (hq : s.seq = .f4) (hquiet : s.quietFor s.cfg.lLeave) : RunsTo 1 s [(s.cyc, .aleave)]
    { s with ie := true, ev := s.ev ++ [.ie s.cyc true], cyc := s.cyc + s.cfg.lLeave, seq := .idle } := by
  obtain ⟨-, -, -, -, -, -, -, -, -, -, -, -, hpos, -⟩ := s.cfg.latencies
  exact .uop (v := .aleave) hq (by decide) rfl (hquiet.within rfl (by simp only [MicroOp.instr, latency]; omega)) rfl

/-- The state in which the `FIRST` of the frame accepted in `s` issues: interrupts off, `HI` and `LO` taken from the port,
the port low. -/
def State.atFirst (base count : Nat) (s : State) : State :=
  { s with cmds := s.cmds.tail, ptr := base, rem := 3 * count, hi := s.port ||| s.cfg.mask,
           lo := s.port &&& ~~~s.cfg.mask, port := s.port &&& ~~~s.cfg.mask, ie := false,
           ev := s.ev ++ [.ie s.cyc false, .wr (s.cyc + s.cfg.lEnter + s.cfg.lSnap) (s.port &&& ~~~s.cfg.mask)],
           cyc := s.cyc + s.cfg.lEnter + s.cfg.lSnap + s.cfg.w, seq := .f3 }

/-- From acceptance to the first load: `SHOWRGB`, `AENTER`, `SNAP`, `SETLO`. -/
theorem runsTo_prologue (hq : s.seq = .idle) (hr : PinReady s) (hp : s.presents (.showrgb base count))
    (hquiet : s.quietFor (s.cfg.lEnter + s.cfg.lSnap + s.cfg.w)) :
    RunsTo 4 s
      [(s.cyc, .showrgb base count), (s.cyc, .aenter), (s.cyc + s.cfg.lEnter, .snap),
        (s.cyc + s.cfg.lEnter + s.cfg.lSnap, .setlo)]
      (s.atFirst base count) := by
  obtain ⟨hinit, hmask, hport, -⟩ := hr
  obtain ⟨hbase, hcount⟩ := hp.fits
  obtain ⟨-, hw, -, -, -, -, -, -, -, henter, hsnap, -⟩ := s.cfg.latencies
  have accept := RunsTo.command hq hp (hquiet.within rfl (by simp only [latency]; omega))
    (exec_showrgb hq hinit hbase hcount)
  have enter := accept.trans (.uop (v := .aenter) (q := .f0) rfl (by decide) rfl
    (hquiet.within rfl (by simp only [MicroOp.instr, latency]; omega)) (exec_aenter_at rfl))
  have snap := enter.trans (.uop (v := .snap) (q := .f1) rfl (by decide) rfl
    (hquiet.within rfl (by simp only [MicroOp.instr, latency]; omega)) (exec_snap_at hport rfl))
  have low := snap.trans (.uop (v := .setlo) (q := .f2) rfl (by decide) rfl
    (hquiet.within rfl (by simp only [MicroOp.instr, latency]; omega)) (thenFinish_portWrite_at hport rfl))
  simpa [State.atFirst, hmask, nextSeq, MicroOp.instr] using low

/-- Settles O50: the prologue, a load with no byte left, and the end of the frame. -/
theorem emptyFrameOnlyDrivesTheLineLow : Obligations.EmptyFrameOnlyDrivesTheLineLow := by
  unfold Obligations.EmptyFrameOnlyDrivesTheLineLow
  intro s base hq hr hp hquiet
  have prologue := runsTo_prologue hq hr hp (hquiet.within rfl (by omega))
  have first := prologue.trans (runsTo_first rfl (hquiet.within rfl (by simp only [State.atFirst]; omega))
    (State.loadByte_empty _ rfl))
  obtain ⟨hrun, htrace⟩ := first.trans (runsTo_leave rfl (hquiet.within rfl (by simp only [State.atFirst]; omega)))
  refine ⟨hrun.trans ?_, htrace⟩
  simp [State.atFirst, hq, Nat.add_assoc]

end Sys2Proof.Machine
end

section
/-! PROOFS. The bytes of a frame: the eight bits of one byte, then every byte to the end of the frame
(42_bit_encoder.md R166, R167, 43_frame_transmitter.md R193, R196). -/

namespace Sys2Proof.Machine

variable {s t : State} {addr n d : Nat} {v : Byte} {us : List Byte} {b : Bool}

/-! ### The first bits of a byte -/

/-- What `CUR` holds of the byte `v` when its bit `n` begins: the whole byte unrolled, what is left of it in the byte loop
(10_state.md R23, R166). -/
def curAt (p : Params) (v : Byte) (n : Nat) : Byte :=
  match p.strategy with
  | .unrolled => v
  | .byteLoop => v <<< n

@[simp] theorem curAt_zero (p : Params) (v : Byte) : curAt p v 0 = v := by
  unfold curAt
  cases p.strategy with
  | unrolled => rfl
  | byteLoop => exact BitVec.shiftLeft_zero v

/-- With either strategy bit `j` of a byte sends its bit `7 - j` (R162). -/
theorem curAt_testedBit (p : Params) (v : Byte) (j : BitIndex) :
    (curAt p v j.val).getLsbD (testedBit p j) = v.getLsbD (7 - j.val) := by
  cases hp : p.strategy with
  | unrolled => rw [curAt, hp, testedBit_unrolled hp]
  | byteLoop =>
    have hj : ¬ 7 < j.val := Nat.not_lt.mpr (Nat.le_of_lt_succ j.isLt)
    rw [curAt, hp, testedBit_byteLoop hp, BitVec.getLsbD_shiftLeft]
    simp [hj, -BitVec.getLsbD_eq_getElem]

/-- One bit later (R166). -/
theorem State.curLeft_curAt (h : s.cur = curAt s.cfg.toParams v n) : s.curLeft = curAt s.cfg.toParams v (n + 1) := by
  cases hp : s.cfg.strategy with
  | unrolled => rw [State.curLeft, hp, h, curAt, curAt, hp]
  | byteLoop => rw [State.curLeft, hp, h, curAt, curAt, hp, BitVec.shiftLeft_add]

/-- The first `n` bits of a byte in the order of sending (30_encoding.md R91). -/
def firstBits (v : Byte) (n : Nat) : List Bool := (List.range n).map (fun i => v.getLsbD (7 - i))

theorem firstBits_succ (v : Byte) (n : Nat) : firstBits v (n + 1) = firstBits v n ++ [v.getLsbD (7 - n)] := by
  simp [firstBits, List.range_succ]

@[simp] theorem firstBits_length (v : Byte) (n : Nat) : (firstBits v n).length = n := by simp [firstBits]

theorem firstBits_eight (v : Byte) : firstBits v 8 = byteBits v := rfl

/-- The micro-operations of the first `n` bits of a byte. -/
def firstSchedule (p : Params) (c n : Nat) : List TraceEntry :=
  (List.range n).flatMap (fun i => bitSchedule p (c + i * p.period) (Fin.ofNat 8 i))

theorem firstSchedule_succ (p : Params) (c n : Nat) :
    firstSchedule p c (n + 1) = firstSchedule p c n ++ bitSchedule p (c + n * p.period) (Fin.ofNat 8 n) := by
  simp [firstSchedule, List.range_succ]

theorem firstSchedule_eight (p : Params) (c : Nat) : firstSchedule p c 8 = byteSchedule p c := by
  simp [firstSchedule, List.range_succ, byteSchedule, -Fin.ofNat_eq_cast]

theorem bitsEvents_concat (p : Params) (hi lo : Byte) (c : Nat) (bs : List Bool) (bit : Bool) :
    bitsEvents p hi lo c (bs ++ [bit]) = bitsEvents p hi lo c bs ++ bitEvents p hi lo (c + bs.length * p.period) bit := by
  induction bs generalizing c with
  | nil => simp [bitsEvents]
  | cons a as ih =>
    rw [List.cons_append, bitsEvents, ih, bitsEvents, List.append_assoc, List.length_cons, Nat.succ_mul, Nat.add_assoc,
      Nat.add_comm p.period]

/-- The state in which bit `n` of the byte that begins in `s` begins, with `b` in `TBIT` and `d` in `DLY`. -/
def State.atBit (n : Nat) (b : Bool) (d : Nat) (s : State) : State :=
  { s with cur := curAt s.cfg.toParams s.cur n, tbit := b, dly := d, j := Fin.ofNat 8 n, cyc := s.cyc + n * s.cfg.period,
           ev := s.ev ++ bitsEvents s.cfg.toParams s.hi s.lo s.cyc (firstBits s.cur n) }

theorem State.atBit_zero (hj : s.j = 0) : s.atBit 0 s.tbit s.dly = s := by
  simp [State.atBit, firstBits, bitsEvents, ← hj]

theorem State.atBit_j (h : n < 8) : (s.atBit n b d).j.val = n := Nat.mod_eq_of_lt h

theorem State.atBit_sentBit (h : n < 8) : (s.atBit n b d).sentBit = s.cur.getLsbD (7 - n) := by
  have hbit := curAt_testedBit s.cfg.toParams s.cur (s.atBit n b d).j
  rwa [State.atBit_j h] at hbit

theorem State.atBit_nextBit (h : n < 7) (hq : s.seq = .b1) (hlow : s.port = s.lo) :
    (s.atBit n b d).nextBit = s.atBit (n + 1) (s.cur.getLsbD (7 - n)) 0 := by
  have hsent : (s.atBit n b d).sentBit = s.cur.getLsbD (7 - n) := State.atBit_sentBit (by omega)
  have hcur : (s.atBit n b d).curLeft = curAt s.cfg.toParams s.cur (n + 1) := State.curLeft_curAt rfl
  have hj : (s.atBit n b d).j + 1 = Fin.ofNat 8 (n + 1) := Fin.ext (Nat.mod_add_mod n 8 1)
  rw [State.nextBit, hcur, hj, State.bitSent, hsent]
  simp [State.atBit, firstBits_succ, bitsEvents_concat, hq, hlow, Nat.succ_mul, Nat.add_assoc]

/-- The first bits of a byte, one period each. -/
theorem runsTo_firstBits (h : n ≤ 7) (hq : s.seq = .b1) (hj : s.j = 0) (hn : s.portC = s.cfg.portId)
    (hlow : s.port = s.lo) (hquiet : s.quietFor (n * s.cfg.period + 1)) :
    ∃ b d, RunsTo (8 * n) s (firstSchedule s.cfg.toParams s.cyc n) (s.atBit n b d) := by
  induction n with
  | zero => exact ⟨s.tbit, s.dly, by rw [State.atBit_zero hj]; exact ⟨rfl, rfl⟩⟩
  | succ n ih =>
    rw [Nat.succ_mul] at hquiet
    obtain ⟨b, d, first⟩ := ih (by omega) (hquiet.within rfl (by omega))
    have hlast : (s.atBit n b d).j ≠ 7 := Fin.ne_of_val_ne (by rw [State.atBit_j (by omega)]; exact Nat.ne_of_lt h)
    have bit := runsTo_nextBit (s := s.atBit n b d) hq hn (hquiet.within rfl (by simp only [State.atBit]; omega)) hlast
    rw [State.atBit_nextBit h hq hlow] at bit
    exact ⟨_, _, firstSchedule_succ .. ▸ first.trans bit⟩

/-! ### One byte -/

/-- `NEXT` issues after the last write of its bit. -/
theorem adjLast_lt_phase3 (g : Cfg) : g.adjLast < g.t3 := by
  obtain ⟨-, hw, -, -, -, -, hlast, -⟩ := g.latencies
  obtain ⟨-, -, h3⟩ := g.thresholds
  omega

theorem adjLast_lt_period (g : Cfg) : g.adjLast < g.period :=
  (adjLast_lt_phase3 g).trans_le (Nat.le_add_left _ _)

/-- In `s` the first bit of the byte at `addr` begins, and the bytes `us` follow it in frame memory. -/
structure Sending (addr : Nat) (us : List Byte) (s : State) : Prop where
  seq : s.seq = .b1
  j : s.j = 0
  named : s.portC = s.cfg.portId
  low : s.port = s.lo
  ptr : s.ptr = (addr + 1) % 2 ^ s.cfg.addrW
  rem : s.rem = us.length
  fits : addr + 1 + us.length ≤ 2 ^ s.cfg.addrW
  owned : ∀ i (h : i < us.length), s.mem.read (addr + 1 + i) = some us[i]

/-- The state at `(B8, 7)` of the byte that begins in `s`. -/
def State.byteSent (s : State) : State :=
  { s with cur := curAt s.cfg.toParams s.cur 7, tbit := s.cur.getLsbD 0, dly := 0, j := 7,
           cyc := s.cyc + 8 * s.cfg.period - s.cfg.adjLast, seq := .b8,
           ev := s.ev ++ bitsEvents s.cfg.toParams s.hi s.lo s.cyc (byteBits s.cur) }

theorem State.byteSent_cyc_add_adjLast (s : State) : s.byteSent.cyc + s.cfg.adjLast = s.cyc + 8 * s.cfg.period := by
  have hlast := adjLast_lt_period s.cfg
  exact Nat.sub_add_cancel (by omega)

theorem State.atBit_bitSent (hlow : s.port = s.lo) : (s.atBit 7 b d).bitSent = s.byteSent := by
  have hcyc : s.cyc + 7 * s.cfg.period + s.cfg.period = s.cyc + 8 * s.cfg.period := by omega
  rw [State.bitSent, State.atBit_sentBit (by decide), State.byteSent, ← firstBits_eight, firstBits_succ,
    bitsEvents_concat]
  simp [State.atBit, hlow, Params.overhead, hcyc]

/-- A whole byte, given the load of its `NEXT`. -/
theorem runsTo_byte (h : Sending addr us s) (hquiet : s.quietFor (8 * s.cfg.period + 1))
    (hload : s.byteSent.loadByte s.cfg.adjLast = .next t) : RunsTo 64 s (byteSchedule s.cfg.toParams s.cyc) t := by
  obtain ⟨b, d, first⟩ := runsTo_firstBits (n := 7) (by decide) h.seq h.j h.named h.low (hquiet.within rfl (by omega))
  rw [← State.atBit_bitSent (b := b) (d := d) h.low] at hload
  have last := runsTo_lastBit (s := s.atBit 7 b d) h.seq h.named
    (hquiet.within rfl (by simp only [State.atBit]; omega)) rfl hload
  rw [← firstSchedule_eight, firstSchedule_succ]
  exact first.trans last

/-- The state in which the byte `v`, after the one at `addr` that begins in `s`, begins. -/
def State.byteLoaded (addr : Nat) (v : Byte) (s : State) : State :=
  { s.byteSent with cur := v, ptr := (addr + 1 + 1) % 2 ^ s.cfg.addrW, rem := s.rem - 1, j := 0, seq := .b1,
                    ev := s.byteSent.ev ++ [.rd (s.cyc + 8 * s.cfg.period - s.cfg.adjLast) (addr + 1)],
                    cyc := s.cyc + 8 * s.cfg.period }

theorem Sending.byteLoaded (h : Sending addr (v :: us) s) : Sending (addr + 1) us (s.byteLoaded addr v) where
  seq := rfl
  j := rfl
  named := h.named
  low := h.low
  ptr := rfl
  rem := congrArg (· - 1) h.rem
  fits := (Nat.add_right_comm (addr + 1) 1 us.length).trans_le h.fits
  owned i hi := (congrArg s.mem.read (Nat.add_right_comm (addr + 1) 1 i)).trans (h.owned (i + 1) (Nat.succ_lt_succ hi))

/-- A byte before the last: the next one is loaded. -/
theorem runsTo_byteLoaded (h : Sending addr (v :: us) s) (hquiet : s.quietFor (8 * s.cfg.period + 1)) :
    RunsTo 64 s (byteSchedule s.cfg.toParams s.cyc) (s.byteLoaded addr v) := by
  have hfits : addr + 1 + (us.length + 1) ≤ 2 ^ s.cfg.addrW := h.fits
  have hrem : s.rem = us.length + 1 := h.rem
  have hptr : s.ptr = addr + 1 := h.ptr.trans (Nat.mod_eq_of_lt (by omega))
  have hload : s.byteSent.loadByte s.cfg.adjLast = _ := State.loadByte_some _ (show s.rem ≠ 0 by omega)
    (show s.ptr + s.rem ≤ 2 ^ s.cfg.addrW by omega) (show s.mem.read s.ptr = some v from hptr ▸ h.owned 0 (Nat.succ_pos _))
  rw [State.byteSent_cyc_add_adjLast] at hload
  rw [State.byteLoaded, ← hptr]
  exact runsTo_byte h hquiet hload

/-! ### All bytes -/

/-- The state at the end of the bytes: the one at `addr` that begins in `s`, and `us` after it. `CUR` and `TBIT` are dead
(43_frame_transmitter.md R202) and hold `c` and `b`. -/
def State.bytesSent (addr : Nat) (us : List Byte) (c : Byte) (b : Bool) (s : State) : State :=
  { s with cur := c, tbit := b, dly := 0, j := 7, ptr := (addr + 1 + us.length) % 2 ^ s.cfg.addrW, rem := 0,
           ev := s.ev ++ bytesEvents s.cfg.toParams s.hi s.lo s.cyc addr (s.cur :: us),
           cyc := s.cyc + 8 * (us.length + 1) * s.cfg.period, seq := .f4 }

/-- The last byte goes to the end of the frame. -/
theorem runsTo_lastByte (h : Sending addr [] s) (hquiet : s.quietFor (8 * s.cfg.period + 1)) :
    ∃ c b, RunsTo 64 s (byteSchedule s.cfg.toParams s.cyc) (s.bytesSent addr [] c b) := by
  have hload := State.loadByte_empty (s := s.byteSent) s.cfg.adjLast h.rem
  rw [State.byteSent_cyc_add_adjLast] at hload
  refine ⟨curAt s.cfg.toParams s.cur 7, s.cur.getLsbD 0, ?_⟩
  simpa [State.bytesSent, State.byteSent, bytesEvents, h.ptr, h.rem] using runsTo_byte h hquiet hload

theorem State.byteLoaded_bytesSent (c : Byte) (b : Bool) :
    (s.byteLoaded addr v).bytesSent (addr + 1) us c b = s.bytesSent addr (v :: us) c b := by
  have hptr : addr + 1 + 1 + us.length = addr + 1 + (us.length + 1) := Nat.add_right_comm ..
  have hcyc : s.cyc + 8 * s.cfg.period + 8 * (us.length + 1) * s.cfg.period
      = s.cyc + 8 * (us.length + 1 + 1) * s.cfg.period := by ring
  simp [State.bytesSent, State.byteLoaded, State.byteSent, bytesEvents, hptr, hcyc]

/-- The bytes of a frame, eight periods each. -/
theorem runsTo_bytes (h : Sending addr us s) (hquiet : s.quietFor (8 * (us.length + 1) * s.cfg.period + 1)) :
    ∃ c b, RunsTo (64 * (us.length + 1)) s (bytesSchedule s.cfg.toParams s.cyc (us.length + 1))
      (s.bytesSent addr us c b) := by
  induction us generalizing s addr with
  | nil => simpa [bytesSchedule] using runsTo_lastByte h (by simpa using hquiet)
  | cons v us ih =>
    have hlen : 8 * ((v :: us).length + 1) * s.cfg.period = 8 * s.cfg.period + 8 * (us.length + 1) * s.cfg.period := by
      rw [List.length_cons]; ring
    rw [hlen] at hquiet
    obtain ⟨c, b, rest⟩ := ih h.byteLoaded (hquiet.within rfl (by simp only [State.byteLoaded, State.byteSent]; omega))
    rw [State.byteLoaded_bytesSent] at rest
    have all := (runsTo_byteLoaded h (hquiet.within rfl (by omega))).trans rest
    exact ⟨c, b, (Nat.add_comm ..).trans (Nat.mul_succ 64 _).symm ▸ all⟩

end Sys2Proof.Machine
end

section
/-! PROOFS. The events of a frame in closed form: their order, the number of port writes among them, and how they move with
the cycle of acceptance (43_frame_transmitter.md R196, R198, R203). -/

namespace Sys2Proof.Machine

variable {a a' b b' c d t base count : Nat} {hi lo : Byte} {l m : List Event} {bytes : List Byte}

/-- The events between the prologue's write and `ALEAVE`: the reads, and the port writes of the bits (R196). -/
def bodyEvents (p : Params) (hi lo : Byte) (t base : Nat) : List Byte → List Event
  | [] => []
  | v :: us => .rd (t + p.lEnter + p.lSnap + p.w) base :: bytesEvents p hi lo (firstRaise p t) base (v :: us)

/-- The events of a frame of three bytes an LED (R195, R196). -/
theorem frameEvents_eq (p : Params) (hlen : bytes.length = 3 * count) : frameEvents p hi lo t base count bytes =
    [.ie t false, .wr (t + p.lEnter + p.lSnap) lo] ++ bodyEvents p hi lo t base bytes
      ++ [.ie (frameLeave p t count) true] := by
  cases bytes with
  | nil =>
    have h0 : count = 0 := by simpa using hlen
    rw [frameEvents, if_pos h0, bodyEvents]
  | cons v us =>
    have h0 : count ≠ 0 := by rintro rfl; cases hlen
    rw [frameEvents, if_neg h0, bodyEvents]

/-- The end of the last bit, by the number of bytes (R197). -/
theorem frameLeave_eq (p : Params) (t : Nat) {n : Nat} (hlen : n = 3 * count) :
    frameLeave p t count = firstRaise p t + 8 * n * p.period := by
  rw [frameLeave, hlen, ← Nat.mul_assoc]

/-! ### Order -/

/-- The events of `l` are in strictly increasing cycle, from cycle `a` on and before cycle `b`. -/
structure OrderedIn (a b : Nat) (l : List Event) : Prop where
  le : a ≤ b
  within : ∀ e ∈ l, a ≤ e.cycle ∧ e.cycle < b
  sorted : l.Pairwise (fun x y => x.cycle < y.cycle)

theorem OrderedIn.nil (h : a ≤ b) : OrderedIn a b [] := ⟨h, by simp, .nil⟩

theorem OrderedIn.widen (h : OrderedIn a b l) (ha : a' ≤ a) (hb : b ≤ b') : OrderedIn a' b' l where
  le := ha.trans (h.le.trans hb)
  within e he := ⟨ha.trans (h.within e he).1, (h.within e he).2.trans_le hb⟩
  sorted := h.sorted

theorem OrderedIn.append (hl : OrderedIn a b l) (hm : OrderedIn b c m) : OrderedIn a c (l ++ m) where
  le := hl.le.trans hm.le
  within e he := (List.mem_append.mp he).elim ((hl.widen le_rfl hm.le).within e) ((hm.widen hl.le le_rfl).within e)
  sorted := List.pairwise_append.mpr ⟨hl.sorted, hm.sorted, fun x hx y hy =>
    (hl.within x hx).2.trans_le (hm.within y hy).1⟩

theorem OrderedIn.cons {e : Event} (ha : a ≤ e.cycle) (h : OrderedIn (e.cycle + 1) b l) : OrderedIn a b (e :: l) :=
  .append (l := [e]) ⟨Nat.le_succ_of_le ha, by simpa using ha, List.pairwise_singleton ..⟩ h

/-- The writes of a bit are over when its `NEXT` would issue. -/
theorem orderedIn_bitEvents (g : Cfg) (bit : Bool) (c : Nat) :
    OrderedIn c (c + g.period - g.adjLast) (bitEvents g.toParams hi lo c bit) := by
  obtain ⟨h1, h2, -⟩ := g.thresholds
  have hlast := adjLast_lt_phase3 g
  have hperiod : g.period = g.t1 + g.t2 + g.t3 := rfl
  have settle {k : Nat} (hk : k ≤ c + g.t1 + g.t2) :
      OrderedIn k (c + g.period - g.adjLast) [.wr (c + g.t1 + g.t2) lo] :=
    .cons hk (.nil (by simp only [Event.cycle]; omega))
  cases bit with
  | true => exact .cons le_rfl (settle (by simp only [Event.cycle]; omega))
  | false =>
    exact .cons le_rfl (.cons (by simp only [Event.cycle]; omega) (settle (by simp only [Event.cycle]; omega)))

/-- The writes of bits, the first of them `bit`, are over when the `NEXT` of the last would issue. -/
theorem orderedIn_bitsEvents (g : Cfg) (bit : Bool) (bs : List Bool) (c : Nat) :
    OrderedIn c (c + (bs.length + 1) * g.period - g.adjLast) (bitsEvents g.toParams hi lo c (bit :: bs)) := by
  induction bs generalizing bit c with
  | nil => simpa [bitsEvents] using orderedIn_bitEvents g bit c
  | cons b bs ih =>
    have hlen : c + ((b :: bs).length + 1) * g.period = c + g.period + (bs.length + 1) * g.period := by
      rw [List.length_cons]; ring
    rw [hlen, bitsEvents]
    exact ((orderedIn_bitEvents g bit c).widen le_rfl (Nat.sub_le _ _)).append (ih b (c + g.period))

theorem orderedIn_bytesEvents (g : Cfg) (v : Byte) (us : List Byte) (c base : Nat) :
    OrderedIn c (c + 8 * (us.length + 1) * g.period) (bytesEvents g.toParams hi lo c base (v :: us)) := by
  have hlast := adjLast_lt_period g
  obtain ⟨-, -, -, -, -, hpos, -⟩ := g.latencies
  induction us generalizing v c base with
  | nil => exact (orderedIn_bitsEvents g _ _ c).widen le_rfl (Nat.sub_le _ _)
  | cons u us ih =>
    have hlen : c + 8 * ((u :: us).length + 1) * g.period = c + 8 * g.period + 8 * (us.length + 1) * g.period := by
      rw [List.length_cons]; ring
    rw [hlen, bytesEvents]
    exact (orderedIn_bitsEvents g _ _ c).append
      (.cons le_rfl ((ih u (c + 8 * g.period) (base + 1)).widen (by simp only [Event.cycle]; omega) le_rfl))

theorem orderedIn_bodyEvents (g : Cfg) (hlen : bytes.length = 3 * count) :
    OrderedIn (t + g.lEnter + g.lSnap + 1) (frameLeave g.toParams t count)
      (bodyEvents g.toParams hi lo t base bytes) := by
  obtain ⟨-, hw, -, -, -, -, -, -, -, -, -, hload, -⟩ := g.latencies
  rw [frameLeave_eq _ _ hlen, firstRaise]
  cases bytes with
  | nil => exact .nil (by omega)
  | cons v us =>
    exact .cons (by simp only [Event.cycle]; omega)
      ((orderedIn_bytesEvents g v us _ base).widen (by simp only [Event.cycle, firstRaise]; omega) le_rfl)

/-- The events of a frame are in strictly increasing cycle (R196). -/
theorem frameEvents_sorted (g : Cfg) (hlen : bytes.length = 3 * count) :
    (frameEvents g.toParams hi lo t base count bytes).Pairwise (fun x y => x.cycle < y.cycle) := by
  obtain ⟨-, -, -, -, -, -, -, -, -, henter, -⟩ := g.latencies
  have body := orderedIn_bodyEvents g hlen (hi := hi) (lo := lo) (t := t) (base := base)
  have leave : OrderedIn (frameLeave g.toParams t count) (frameLeave g.toParams t count + 1)
    [.ie (frameLeave g.toParams t count) true] := .cons le_rfl (.nil le_rfl)
  rw [frameEvents_eq _ hlen]
  exact OrderedIn.sorted (a := t) (.append (.cons le_rfl (.cons (by simp only [Event.cycle]; omega) body)) leave)

/-! ### Port writes -/

theorem countP_isWr_bitEvents (p : Params) (c : Nat) (bit : Bool) :
    (bitEvents p hi lo c bit).countP Event.isWr = 2 + [bit].countP (fun b => !b) := by
  cases bit <;> rfl

theorem countP_isWr_bitsEvents (p : Params) (c : Nat) (bs : List Bool) :
    (bitsEvents p hi lo c bs).countP Event.isWr = 2 * bs.length + bs.countP (fun b => !b) := by
  induction bs generalizing c with
  | nil => rfl
  | cons b bs ih =>
    rw [bitsEvents, List.countP_append, countP_isWr_bitEvents, ih, ← List.singleton_append (l := bs), List.countP_append,
      List.length_append, List.length_singleton]
    omega

/-- Two writes a bit, and a third one for a bit that is 0 (R196); the reads are no writes. -/
theorem countP_isWr_bytesEvents (p : Params) (c base : Nat) (bytes : List Byte) :
    (bytesEvents p hi lo c base bytes).countP Event.isWr
      = 2 * (8 * bytes.length) + (frameBits bytes).countP (fun b => !b) := by
  have byte (c : Nat) (v : Byte) : (bitsEvents p hi lo c (byteBits v)).countP Event.isWr
      = 2 * 8 + (byteBits v).countP (fun b => !b) := countP_isWr_bitsEvents p c (byteBits v)
  induction bytes generalizing c base with
  | nil => rfl
  | cons v us ih =>
    have hbits : frameBits (v :: us) = byteBits v ++ frameBits us := List.flatMap_cons
    rw [hbits, List.countP_append, List.length_cons]
    cases us with
    | nil => rw [bytesEvents, byte]; rfl
    | cons u us =>
      have read : ¬ Event.isWr (.rd (c + 8 * p.period - p.adjLast) (base + 1)) := Bool.false_ne_true
      rw [bytesEvents, List.countP_append, byte, List.countP_cons_of_neg read, ih]
      omega

/-- A frame of `N` bits, `Z` of them 0, makes `1 + 2 * N + Z` port writes (R196). -/
theorem countP_isWr_frameEvents (p : Params) (hlen : bytes.length = 3 * count) :
    (frameEvents p hi lo t base count bytes).countP Event.isWr
      = 1 + 2 * (24 * count) + (frameBits bytes).countP (fun b => !b) := by
  have body : (bodyEvents p hi lo t base bytes).countP Event.isWr
      = 2 * (24 * count) + (frameBits bytes).countP (fun b => !b) := by
    have hbits : 24 * count = 8 * bytes.length := by omega
    rw [hbits, ← countP_isWr_bytesEvents p (hi := hi) (lo := lo) (firstRaise p t) base]
    cases bytes <;> rfl
  rw [frameEvents_eq p hlen, List.countP_append, List.countP_append, body]
  change 1 + (2 * (24 * count) + _) + 0 = _
  omega

/-! ### The same events later -/

theorem bitEvents_later (p : Params) (c d : Nat) (bit : Bool) :
    bitEvents p hi lo (c + d) bit = (bitEvents p hi lo c bit).map (Event.later d) := by
  cases bit <;> simp [bitEvents, Event.later, Nat.add_right_comm]

theorem bitsEvents_later (p : Params) (c d : Nat) (bs : List Bool) :
    bitsEvents p hi lo (c + d) bs = (bitsEvents p hi lo c bs).map (Event.later d) := by
  induction bs generalizing c with
  | nil => rfl
  | cons b bs ih => rw [bitsEvents, bitsEvents, List.map_append, ← bitEvents_later, ← ih, Nat.add_right_comm]

theorem bytesEvents_later (g : Cfg) (c d base : Nat) (bytes : List Byte) :
    bytesEvents g.toParams hi lo (c + d) base bytes
      = (bytesEvents g.toParams hi lo c base bytes).map (Event.later d) := by
  have hlast := adjLast_lt_period g
  induction bytes generalizing c base with
  | nil => rfl
  | cons v us ih =>
    cases us with
    | nil => exact bitsEvents_later ..
    | cons u us =>
      have hread : c + d + 8 * g.period - g.adjLast = c + 8 * g.period - g.adjLast + d := by omega
      rw [bytesEvents, bytesEvents, List.map_append, List.map_cons, ← bitsEvents_later, ← ih, hread, Event.later,
        Nat.add_right_comm c d]

/-- A frame accepted `d` cycles later has the same events, `d` cycles later (R203). -/
theorem frameEvents_later (g : Cfg) (t d base count : Nat) (bytes : List Byte) :
    frameEvents g.toParams hi lo (t + d) base count bytes
      = (frameEvents g.toParams hi lo t base count bytes).map (Event.later d) := by
  have hraise : firstRaise g.toParams (t + d) = firstRaise g.toParams t + d := by
    simp only [firstRaise]
    omega
  have hleave : frameLeave g.toParams (t + d) count = frameLeave g.toParams t count + d := by
    rw [frameLeave, frameLeave, hraise, Nat.add_right_comm]
  rw [frameEvents, frameEvents, hraise, hleave, bytesEvents_later]
  split <;> simp [Event.later, Nat.add_right_comm _ d]

end Sys2Proof.Machine
end

section
/-! PROOFS. A whole frame: its run, its events, its cycles and the state it leaves (43_frame_transmitter.md R193 to
R203). -/

namespace Sys2Proof.Machine

variable {s : State} {base count m d : Nat} {v c : Byte} {us bytes : List Byte} {b : Bool}

/-- A frame ends `L_LEAVE` cycles after its `ALEAVE` issues (R197). -/
theorem frameCycles_eq (p : Params) (t count : Nat) : t + frameCycles p count = frameLeave p t count + p.lLeave := by
  rw [frameCycles, frameLeave, firstRaise]
  omega

/-! ### From the first load to `ALEAVE` -/

/-- The state in which the `ALEAVE` of the frame accepted in `s` issues. `CUR`, `TBIT` and `DLY` hold `c`, `b` and `d`. -/
def State.atLeave (base count : Nat) (bytes : List Byte) (c : Byte) (b : Bool) (d : Nat) (s : State) : State :=
  { s.atFirst base count with
    cur := c, tbit := b, dly := d, j := if count = 0 then s.j else 7, ptr := (base + 3 * count) % 2 ^ s.cfg.addrW, rem := 0,
    ev := (s.atFirst base count).ev
      ++ bodyEvents s.cfg.toParams (s.port ||| s.cfg.mask) (s.port &&& ~~~s.cfg.mask) s.cyc base bytes,
    cyc := frameLeave s.cfg.toParams s.cyc count, seq := .f4 }

/-- The state in which the first byte, `v`, of the frame accepted in `s` begins. -/
def State.firstByte (base count : Nat) (v : Byte) (s : State) : State :=
  { s.atFirst base count with
    cur := v, ptr := (base + 1) % 2 ^ s.cfg.addrW, rem := 3 * count - 1, j := 0, seq := .b1,
    ev := (s.atFirst base count).ev ++ [.rd (s.atFirst base count).cyc base], cyc := firstRaise s.cfg.toParams s.cyc }

theorem FramePremises.sending (h : FramePremises s base count (v :: us)) : Sending base us (s.firstByte base count v) where
  seq := rfl
  j := rfl
  named := h.ready.port
  low := rfl
  ptr := rfl
  rem := congrArg (· - 1) h.length.symm
  fits := by
    have hlen : us.length + 1 = 3 * count := h.length
    have hfits : base + 3 * count ≤ 2 ^ s.cfg.addrW := h.fits
    show base + 1 + us.length ≤ 2 ^ s.cfg.addrW
    omega
  owned i hi := (congrArg s.mem.read (Nat.add_right_comm base 1 i)).trans (h.owned (i + 1) (Nat.succ_lt_succ hi))

/-- The empty frame: one load that finds no byte (R168, R195). -/
theorem runsTo_emptyBody (h : FramePremises s base 0 []) :
    RunsTo 1 (s.atFirst base 0) [((s.atFirst base 0).cyc, .first)] (s.atLeave base 0 [] s.cur s.tbit s.dly) := by
  have hbase : base % 2 ^ s.cfg.addrW = base := Nat.mod_eq_of_lt h.presented.fits.1
  have first := runsTo_first (s := s.atFirst base 0) rfl
    (h.quiet.within rfl (by simp only [State.atFirst, frameCycles]; omega)) (State.loadByte_empty _ rfl)
  simpa [State.atLeave, State.atFirst, bodyEvents, frameLeave, firstRaise, hbase] using first

/-- A frame with bytes: the first load, then every byte (R193). -/
theorem runsTo_body (h : FramePremises s base count (v :: us)) : ∃ c b,
    RunsTo (1 + 64 * (3 * count)) (s.atFirst base count)
      (((s.atFirst base count).cyc, .first) :: bytesSchedule s.cfg.toParams (firstRaise s.cfg.toParams s.cyc) (3 * count))
      (s.atLeave base count (v :: us) c b 0) := by
  have hlen : us.length + 1 = 3 * count := h.length
  have hcycles := frameCycles_eq s.cfg.toParams s.cyc count
  have hleave := frameLeave_eq s.cfg.toParams s.cyc hlen
  have hquiet := h.quiet
  obtain ⟨-, -, -, -, -, -, -, -, -, -, -, -, hpos, -⟩ := s.cfg.latencies
  have first := runsTo_first (s := s.atFirst base count) rfl
    (hquiet.within rfl (by simp only [State.atFirst]; rw [hcycles, hleave, firstRaise]; omega))
    (State.loadByte_some (v := v) _ (show 3 * count ≠ 0 by omega) h.fits (h.owned 0 (Nat.succ_pos _)))
  obtain ⟨c, b, rest⟩ := runsTo_bytes h.sending
    (hquiet.within rfl (by simp only [State.firstByte, State.atFirst]; rw [hcycles, hleave]; omega))
  have hend : (s.firstByte base count v).bytesSent base us c b = s.atLeave base count (v :: us) c b 0 := by
    have hptr : base + 1 + us.length = base + 3 * count := by omega
    have hcount : count ≠ 0 := by omega
    simp [State.bytesSent, State.firstByte, State.atLeave, State.atFirst, bodyEvents, hptr, hcount, hleave]
  rw [hend, hlen] at rest
  exact ⟨c, b, first.trans rest⟩

/-! ### From acceptance to `IDLE` -/

/-- The state the frame accepted in `s` leaves (R202). -/
def State.frameSent (base count : Nat) (bytes : List Byte) (c : Byte) (b : Bool) (d : Nat) (s : State) : State :=
  { s.atLeave base count bytes c b d with
    ie := true,
    ev := s.ev ++ frameEvents s.cfg.toParams (s.port ||| s.cfg.mask) (s.port &&& ~~~s.cfg.mask) s.cyc base count bytes,
    cyc := s.cyc + frameCycles s.cfg.toParams count, seq := .idle }

/-- A frame, given its run from the first load to `ALEAVE`. -/
theorem runsTo_frameSent (h : FramePremises s base count bytes)
    (body : RunsTo m (s.atFirst base count)
      (((s.atFirst base count).cyc, .first) :: bytesSchedule s.cfg.toParams (firstRaise s.cfg.toParams s.cyc) (3 * count))
      (s.atLeave base count bytes c b d)) :
    RunsTo (4 + m + 1) s ((s.cyc, .showrgb base count) :: frameSchedule s.cfg.toParams s.cyc count)
      (s.frameSent base count bytes c b d) := by
  have hcycles := frameCycles_eq s.cfg.toParams s.cyc count
  have prologue := runsTo_prologue h.idle h.ready h.presented (h.quiet.within rfl (by rw [frameCycles]; omega))
  have leave := runsTo_leave (s := s.atLeave base count bytes c b d) rfl (h.quiet.within rfl hcycles.ge)
  have hev : s.ev ++ frameEvents s.cfg.toParams (s.port ||| s.cfg.mask) (s.port &&& ~~~s.cfg.mask) s.cyc base count bytes
      = (s.atLeave base count bytes c b d).ev ++ [.ie (frameLeave s.cfg.toParams s.cyc count) true] := by
    simp [State.atLeave, State.atFirst, frameEvents_eq _ h.length]
  rw [State.frameSent, hcycles, hev]
  exact (prologue.trans body).trans leave

/-- A frame runs to its end and issues exactly its schedule (R193, R202). -/
theorem runsTo_frame (h : FramePremises s base count bytes) : ∃ c b d,
    RunsTo (4 + (1 + 64 * (3 * count)) + 1) s ((s.cyc, .showrgb base count) :: frameSchedule s.cfg.toParams s.cyc count)
      (s.frameSent base count bytes c b d) := by
  cases bytes with
  | nil =>
    obtain rfl : count = 0 := by simpa using h.length
    exact ⟨_, _, _, runsTo_frameSent h (runsTo_emptyBody h)⟩
  | cons v us =>
    obtain ⟨c, b, body⟩ := runsTo_body h
    exact ⟨c, b, 0, runsTo_frameSent h body⟩

/-- Settles O51: `runsTo_frame` and the fields of `State.frameSent`; the order and the number of the events are facts of
the closed form. -/
theorem frameRunsToItsClosedForm : Obligations.FrameRunsToItsClosedForm := by
  unfold Obligations.FrameRunsToItsClosedForm
  intro s base count bytes h
  obtain ⟨c, b, d, hrun, -⟩ := runsTo_frame h
  have hline : (s.frameSent base count bytes c b d).line = some false := by
    rw [State.line_driven (s := s.frameSent base count bytes c b d) h.ready.output]
    exact congrArg some (decide_eq_false (not_not_intro (cleared_and_mask s.port s.cfg.mask)))
  exact ⟨frameEvents_sorted s.cfg h.length, countP_isWr_frameEvents s.cfg.toParams h.length, _, _, hrun, rfl, rfl, rfl,
    rfl, hline, rfl, rfl, rfl, fun h0 => if_neg h0, fun h0 => if_pos h0, rfl, rfl, rfl, rfl, rfl, rfl, rfl, rfl, rfl, rfl⟩

/-- Settles O58: both frames run to their closed form with the same `HI` and `LO`, and the closed form moves with the cycle
of acceptance. -/
theorem sameFrameTwiceGivesTheSameEvents : Obligations.SameFrameTwiceGivesTheSameEvents := by
  unfold Obligations.SameFrameTwiceGivesTheSameEvents
  intro s₁ s₂ base count d bytes h₁ h₂ hcfg hothers hcyc
  obtain ⟨_, _, _, hrun₁, -⟩ := runsTo_frame h₁
  obtain ⟨_, _, _, hrun₂, -⟩ := runsTo_frame h₂
  have hlo : s₂.port &&& ~~~s₂.cfg.mask = s₁.port &&& ~~~s₁.cfg.mask := hothers.symm
  have hhi : s₂.port ||| s₂.cfg.mask = s₁.port ||| s₁.cfg.mask := by
    rw [set_eq_cleared_or, hlo, ← hcfg, ← set_eq_cleared_or]
  refine ⟨_, _, _, _, _, _, hrun₁, hrun₂, rfl, rfl, rfl, rfl, rfl, rfl, ?events, hhi, hlo⟩
  case events => rw [hhi, hlo, hcyc, ← hcfg, frameEvents_later]

end Sys2Proof.Machine
end

section
/-! PROOFS. The host commands: `INIT` and `SHOWARGB` from the presented word to `IDLE`, the operands `SHOWRGB` latches,
and the reserved command (44_commands.md R211 to R216). -/

namespace Sys2Proof.Machine

variable {s : State}

/-! ### The reserved command -/

/-- The presented command is what issues at `IDLE` (R210). -/
theorem State.issue_presented {i : Instr} (hq : s.seq = .idle) (hi : s.presents i) : s.issue = .op i := by
  obtain ⟨c, rest, hc, hsince, hdec⟩ := hi
  simp [State.issue, State.busy, hq, hc, Nat.not_lt.mpr hsince, hdec]

/-- At `IDLE`, a step without another agent's move runs the presented command (R210). -/
theorem step_presented {i : Instr} (hd : s.dueMove = none) (hq : s.seq = .idle) (hi : s.presents i) :
    step s = exec i s := by
  simp [step, hd, State.issue_presented hq hi]

/-- Settles O5: the reserved command's meaning is its refusal, and a step that runs it answers the same. -/
theorem reservedCommandIsRefused : Obligations.ReservedCommandIsRefused := by
  unfold Obligations.ReservedCommandIsRefused
  exact ⟨fun _ => rfl, fun _ hq hd hi => step_presented hd hq hi⟩

/-! ### `SHOWRGB` -/

/-- `SHOWRGB` before `INIT` faults, whatever its operands (R214). -/
theorem exec_showrgb_before_init {base count : Nat} (hq : s.seq = .idle) (hi : s.inited = false) :
    exec (.showrgb base count) s = .fault .showBeforeInit := by
  rw [exec, execShowrgb, State.whenIdle_idle _ hq, if_neg (by simp [hi])]

/-- Settles O13: `exec_showrgb` after `INIT`, `exec_showrgb_before_init` before it. -/
theorem showrgbLatchesItsOperandsAfterInit : Obligations.ShowrgbLatchesItsOperandsAfterInit := by
  unfold Obligations.ShowrgbLatchesItsOperandsAfterInit
  exact fun s base count hq => ⟨exec_showrgb hq, exec_showrgb_before_init hq⟩

/-! ### `INIT` -/

/-- `INIT` at `IDLE` is accepted (R210, R211). -/
theorem exec_init (hq : s.seq = .idle) : exec .init s = .next { s with seq := .i0, cmds := s.cmds.tail } :=
  State.whenIdle_idle _ hq

/-- The state `INIT`, accepted in `s`, leaves at `IDLE` (R211). -/
def State.pinSetUp (s : State) : State :=
  { s with cmds := s.cmds.tail, dir := true, maskC := s.cfg.mask, portC := s.cfg.portId, inited := true,
           ev := s.ev ++ [.dir s.cyc], cyc := s.cyc + (s.cfg.lDir + s.cfg.lCache) }

/-- From acceptance to `IDLE`: `INIT`, `DIROUT`, `CACHE` (R211). -/
theorem runsTo_init (hq : s.seq = .idle) (hp : s.presents .init) (hquiet : s.quietFor (s.cfg.lDir + s.cfg.lCache)) :
    RunsTo 3 s [(s.cyc, .init), (s.cyc, .dirout), (s.cyc + s.cfg.lDir, .cache)] s.pinSetUp := by
  obtain ⟨-, -, -, -, -, -, -, -, -, -, -, -, -, hdir, hcache, -⟩ := s.cfg.latencies
  have accept := RunsTo.command hq hp (hquiet.within rfl (by simp only [latency]; omega)) (exec_init hq)
  have drive := accept.trans (.uop (v := .dirout) (q := .i0) rfl (by decide) rfl
    (hquiet.within rfl (by simp only [MicroOp.instr, latency]; omega)) (diroutDrivesTheLine _ rfl).1)
  have cache := drive.trans (.uop (v := .cache) (q := .i1) rfl (by decide) rfl
    (hquiet.within rfl (by simp only [MicroOp.instr, latency]; omega)) (cacheCapturesThePinIdentity _ rfl))
  rw [State.pinSetUp, hq, ← Nat.add_assoc]
  exact cache

/-- Settles O14: the run of `runsTo_init`. -/
theorem initSetsUpThePin : Obligations.InitSetsUpThePin := by
  unfold Obligations.InitSetsUpThePin
  exact fun s hq hp hquiet => (runsTo_init hq hp hquiet).run

/-- What `INIT` leaves when the pin is set up already (R212): `INIT` writes what is there. -/
theorem PinReady.pinSetUp_eq (h : PinReady s) : s.pinSetUp = { s with
    cmds := s.cmds.tail, ev := s.ev ++ [.dir s.cyc], cyc := s.cyc + (s.cfg.lDir + s.cfg.lCache) } := by
  obtain ⟨hinit, hmask, hport, hdir⟩ := h
  rw [State.pinSetUp, hinit, hmask, hport, hdir]

/-- Settles O15: the run of `runsTo_init`, with `PinReady.pinSetUp_eq` for its end. -/
theorem repeatedInitChangesNoState : Obligations.RepeatedInitChangesNoState := by
  unfold Obligations.RepeatedInitChangesNoState
  intro s hq hr hp hquiet
  rw [← hr.pinSetUp_eq]
  exact (runsTo_init hq hp hquiet).run

/-! ### `SHOWARGB` -/

/-- `SHOWARGB` at `IDLE` is accepted (R210, R215). -/
theorem exec_showargb (hq : s.seq = .idle) : exec .showargb s = .next { s with seq := .a0, cmds := s.cmds.tail } :=
  State.whenIdle_idle _ hq

/-- From acceptance to `IDLE`: `SHOWARGB`, `NOP` (R215). -/
theorem runsTo_showargb (hq : s.seq = .idle) (hp : s.presents .showargb) (hquiet : s.quietFor s.cfg.lNop) :
    RunsTo 2 s [(s.cyc, .showargb), (s.cyc, .nop)] { s with cmds := s.cmds.tail, cyc := s.cyc + s.cfg.lNop } := by
  obtain ⟨-, -, -, -, -, -, -, -, -, -, -, -, -, -, -, hnop⟩ := s.cfg.latencies
  have accept := RunsTo.command hq hp (hquiet.within rfl (by simp only [latency]; omega)) (exec_showargb hq)
  have wait := accept.trans (.uop (v := .nop) (q := .a0) rfl (by decide) rfl
    (hquiet.within rfl (by simp only [MicroOp.instr, latency]; omega)) rfl)
  rw [hq]
  exact wait

/-- Settles O16: the run of `runsTo_showargb`. -/
theorem showargbIsASilentNoOp : Obligations.ShowargbIsASilentNoOp := by
  unfold Obligations.ShowargbIsASilentNoOp
  exact fun s hq hp hquiet => (runsTo_showargb hq hp hquiet).run

end Sys2Proof.Machine
end

section
/-! PROOFS. The state after reset (60_exceptions.md R243). -/

namespace Sys2Proof.Machine

/-- Settles O44: `BUSY` is read off the position, which is `IDLE`; the other elements stand in the reset record. -/
theorem resetStateIsIdle : Obligations.ResetStateIsIdle := by
  unfold Obligations.ResetStateIsIdle
  intro c b v m
  have hidle : (State.resetWith c b v m).seq = .idle := rfl
  have hbusy : (State.resetWith c b v m).busy = false :=
    Bool.eq_false_iff.mpr fun h => (State.busy_iff _).mp h hidle
  exact ⟨hidle, hbusy, rfl, rfl, rfl, rfl, rfl, rfl, rfl, rfl⟩

end Sys2Proof.Machine
end

section
/-! PROOFS. The cycles an instruction takes (70_reset_and_hazards.md R282). -/

namespace Sys2Proof.Machine

variable {s t : State}

/-- An instruction that answers a next state advances `CYC` by exactly its latency (R282), whichever branch it takes: a
command by none, `CDROP` by `W` whether it drops or not, a load by its latency whether a byte is left or not. -/
theorem exec_cyc {i : Instr} (h : exec i s = .next t) : t.cyc = s.cyc + latency s.cfg.toParams i := by
  cases i with
  | reservedCommand11 | reservedUop14 | reservedUop15 => cases h
  | nop | dirout | cache | aenter | aleave | delay | testb | shift => cases h; rfl
  | init | showargb =>
    obtain ⟨-, rfl⟩ | ⟨-, ht⟩ := State.whenIdle_next h
    · rfl
    · cases ht; rfl
  | showrgb => obtain ⟨-, rfl⟩ | ⟨-, -, rfl⟩ := execShowrgb_next h <;> rfl
  | snap => obtain ⟨-, rfl⟩ := execSnap_next h; rfl
  | setlo | sethi => obtain ⟨-, rfl⟩ := thenFinish_portWrite_next h; rfl
  | cdrop => obtain ⟨-, -, rfl⟩ | ⟨-, rfl⟩ := execCdrop_next h <;> rfl
  | first | next => obtain ⟨-, rfl⟩ | ⟨v, -, -, -, rfl⟩ := State.loadByte_next h <;> rfl

/-- Settles O40: `exec_cyc` at each micro-operation, its latency read off the table of R282. -/
theorem everyMicroOperationTakesItsLatency : Obligations.EveryMicroOperationTakesItsLatency := by
  unfold Obligations.EveryMicroOperationTakesItsLatency
  intro s t
  refine ⟨?nop, ?dirout, ?cache, ?aenter, ?snap, ?setlo, ?sethi, ?cdrop, ?testb, ?delay, ?shift, ?first, ?next, ?aleave⟩
  case testb | delay => exact fun _ => exec_cyc
  case nop | dirout | cache | aenter | snap | setlo | sethi | cdrop | shift | first | next | aleave => exact exec_cyc

end Sys2Proof.Machine
end

section
/-! PROOFS. Decoding and encoding agree: the instruction of an encoded instruction, the bits of a decoded one, and the
codes of the micro-operations (30_encoding.md R101 to R107). -/

namespace Sys2Proof

variable {p : Params} {i : Instr} {op base count code operand : Nat}

/-! ### Decoding what was encoded -/

/-- Settles O1: a command word gives its fields back (`decodeCommand_commandWord`); a micro-operation's code is its row of
the table, with `TESTB`'s operand in range. -/
theorem decodeOfEncodeIsTheInstruction : Obligations.DecodeOfEncodeIsTheInstruction := by
  unfold Obligations.DecodeOfEncodeIsTheInstruction
  intro p i hwf
  have command {op : Nat} (hop : op < 4) : decodeCommand p (commandWord p op 0 0) = .ok (commandOf op 0 0) :=
    decodeCommand_commandWord hop (Nat.two_pow_pos _) (Nat.two_pow_pos _)
  cases i with
  | init | showargb | reservedCommand11 => exact command (by decide)
  | showrgb base count =>
    obtain ⟨hbase, hcount⟩ : base < 2 ^ p.addrW ∧ count < 2 ^ p.countW := by simpa [Instr.wf] using hwf
    exact decodeCommand_commandWord (by decide) hbase hcount
  | testb k =>
    have hk : k < 8 := by simpa [Instr.wf] using hwf
    simp [encode, decode, decodeUop, decodeMicroOp, hk, MicroOp.instr]
  | nop | dirout | cache | aenter | aleave | snap | setlo | sethi | delay | cdrop | shift | first | next | reservedUop14
  | reservedUop15 => rfl

/-! ### Encoding what was decoded -/

/-- The three fields of a number of `CMD_W` bits make it up again. -/
theorem commandWord_bits {word : Nat} (h : word < 2 ^ p.cmdW) :
    commandWord p (bits word 0 2) (bits word 2 p.addrW) (bits word (2 + p.addrW) p.countW) = word := by
  have hcount : word / 2 ^ (2 + p.addrW) < 2 ^ p.countW := by
    rw [Nat.div_lt_iff_lt_mul (Nat.two_pow_pos _), ← Nat.pow_add, Nat.add_comm]
    exact h
  have hbase := Nat.mod_add_div (word / 2 ^ 2) (2 ^ p.addrW)
  rw [Nat.div_div_eq_div_mul, ← Nat.pow_add] at hbase
  rw [commandWord_eq, bits, bits, bits, Nat.mod_eq_of_lt hcount, hbase]
  omega

/-- A decoded command word has `CMD_W` bits. -/
theorem decodeCommand_lt {word : Nat} (h : decodeCommand p word = .ok i) : word < 2 ^ p.cmdW := by
  by_contra hn
  rw [decodeCommand, if_pos (Nat.le_of_not_lt hn)] at h
  cases h

/-- A decoded `SHOWRGB` encodes to the word it was read from. -/
theorem encode_decodeCommand_showrgb {word : Nat} (h : decodeCommand p word = .ok (.showrgb base count)) :
    encode p (.showrgb base count) = .cmd word := by
  have hlt := decodeCommand_lt h
  have hword := commandWord_bits hlt
  rw [decodeCommand_of_lt hlt] at h
  generalize bits word 0 2 = op at h hword
  match op with
  | 0 | 2 | _ + 3 => cases h
  | 1 =>
    cases h
    exact congrArg Encoded.cmd hword

/-- A code without an operand is read only where the operand is absent. -/
theorem plainUop_ok {α : Type} {u v : α} (h : plainUop u operand = .ok v) : v = u ∧ operand = 0 := by
  unfold plainUop at h
  split at h <;> cases h
  exact ⟨rfl, ‹_›⟩

/-- A decoded micro-operation has its operand in range and encodes to the code and operand it was read from (R104). -/
theorem decodeMicroOp_ok {u : MicroOp} (h : decodeMicroOp code operand = .ok u) :
    u.instr.wf p = true ∧ encode p u.instr = .uop code operand := by
  match code with
  | 0 | 1 | 2 | 3 | 4 | 5 | 6 | 7 | 10 | 11 | 12 | 13 =>
    obtain ⟨rfl, rfl⟩ := plainUop_ok h
    exact ⟨rfl, rfl⟩
  | 8 => cases h; exact ⟨rfl, rfl⟩
  | 9 =>
    rw [decodeMicroOp] at h
    split at h <;> cases h
    exact ⟨decide_eq_true ‹_›, rfl⟩
  | 14 | 15 | _ + 16 => cases h

/-- A decoded code is one of the two reserved rows of the table, or a micro-operation (R106). -/
theorem decodeUop_ok (h : decodeUop code operand = .ok i) :
    (i = .reservedUop14 ∧ code = 14 ∨ i = .reservedUop15 ∧ code = 15) ∧ operand = 0 ∨
      ∃ u, i = u.instr ∧ decodeMicroOp code operand = .ok u := by
  unfold decodeUop at h
  split at h
  · exact .inl ⟨.inl ⟨(plainUop_ok h).1, rfl⟩, (plainUop_ok h).2⟩
  · exact .inl ⟨.inr ⟨(plainUop_ok h).1, rfl⟩, (plainUop_ok h).2⟩
  · split at h <;> cases h
    exact .inr ⟨_, rfl, ‹_›⟩

/-- Settles O2: the commands by the fields of their word (`SHOWRGB` alone has operands to fit), the codes by
`decodeUop_ok`. -/
theorem decodedInstructionsFitAndReencode : Obligations.DecodedInstructionsFitAndReencode := by
  unfold Obligations.DecodedInstructionsFitAndReencode
  intro p e i h
  cases e with
  | cmd word =>
    obtain rfl | ⟨base, count, rfl⟩ | rfl | rfl := Machine.decodeCommand_ok h
    · exact ⟨rfl, fun hne => absurd rfl hne⟩
    · obtain ⟨hbase, hcount⟩ := Machine.decodeCommand_showrgb_fits h
      exact ⟨by simp [Instr.wf, hbase, hcount], fun _ _ _ => encode_decodeCommand_showrgb h⟩
    · exact ⟨rfl, fun _ hne => absurd rfl hne⟩
    · exact ⟨rfl, fun _ _ hne => absurd rfl hne⟩
  | uop code operand =>
    obtain ⟨⟨rfl, rfl⟩ | ⟨rfl, rfl⟩, rfl⟩ | ⟨u, rfl, hu⟩ := decodeUop_ok h
    · exact ⟨rfl, fun _ _ _ => rfl⟩
    · exact ⟨rfl, fun _ _ _ => rfl⟩
    · obtain ⟨hwf, hencode⟩ := decodeMicroOp_ok hu
      exact ⟨hwf, fun _ _ _ => hencode⟩

/-! ### The tables -/

/-- Settles O4: each word and code is read as its row of the table. -/
theorem wordsOfTheTableDecode : Obligations.WordsOfTheTableDecode := by
  unfold Obligations.WordsOfTheTableDecode
  decide

/-- Every micro-operation with its operand in range has a code up to 13, which decodes to it (R104). -/
theorem microOp_has_code {u : MicroOp} (h : u.instr.wf p = true) :
    ∃ code operand, code ≤ 13 ∧ encode p u.instr = .uop code operand ∧ decodeMicroOp code operand = .ok u := by
  cases u with
  | testb k => exact ⟨9, k, by decide, rfl, if_pos (of_decide_eq_true h)⟩
  | nop | dirout | cache | aenter | aleave | snap | setlo | sethi | delay | cdrop | shift | first | next =>
    exact ⟨_, _, by decide, rfl, rfl⟩

/-- No micro-operation is a reserved row of the table (R106). -/
theorem MicroOp.instr_not_reserved (u : MicroOp) : u.instr ≠ .reservedUop14 ∧ u.instr ≠ .reservedUop15 := by
  cases u <;> exact ⟨nofun, nofun⟩

/-- Settles O6: `microOp_has_code` for the codes up to 13; what is issued is a `MicroOp`, which is no reserved row. -/
theorem reservedCodesAreNeverIssuedAndRefused : Obligations.ReservedCodesAreNeverIssuedAndRefused := by
  unfold Obligations.ReservedCodesAreNeverIssuedAndRefused
  exact ⟨fun p u => microOp_has_code, fun _ => ⟨rfl, rfl⟩, fun _ _ _ u _ => u.instr_not_reserved, fun _ => rfl,
    fun _ => rfl⟩

end Sys2Proof
end

section
/-! PROOFS. What the build check names: phases below their minimum, and no negative delay argument
(40_timing_and_delay.md R122, R125, R126; 60_exceptions.md R232). -/

namespace Sys2Proof

variable {p : Params} {t1 t2 t3 : Nat} {e : BuildError}

theorem validate_none_iff : validate t1 t2 t3 = none ↔ minT1 ≤ t1 ∧ minT2 ≤ t2 ∧ minT3 ≤ t3 := by
  rw [validate]
  split
  · simp only [reduceCtorEq, false_iff]
    omega
  · simp only [true_iff]
    omega

/-- What the build check stops is not built, with the error it names. -/
theorem build_cycles_error (h : Params.buildCheck { p with t1 := t1, t2 := t2, t3 := t3 } = some e) :
    build (.cycles t1 t2 t3) p = .error e := by
  rw [build, TimingSource.resolve]
  dsimp only
  split <;> simp_all

/-- The build check names the failure of `VALIDATE` first (log 29). -/
theorem Params.buildCheck_of_validate (h : validate p.t1 p.t2 p.t3 = some e) : p.buildCheck = some e := by
  rw [Params.buildCheck, h]

/-- Settles O9: `VALIDATE` is the first test of the build check. -/
theorem timingBelowAMinimumIsNotBuilt : Obligations.TimingBelowAMinimumIsNotBuilt := by
  unfold Obligations.TimingBelowAMinimumIsNotBuilt
  refine fun t1 t2 t3 => ⟨fun hlow => ?below, fun h1 h2 h3 => validate_none_iff.mpr ⟨h1, h2, h3⟩⟩
  case below =>
    have hfail := validate_below_minimum hlow
    exact ⟨hfail, fun p => build_cycles_error (Params.buildCheck_of_validate hfail)⟩

/-- Phases at their minimum or above leave room for every latency that fits the minimum (R126). -/
theorem Params.delays_nonneg_of_validate (h1 : p.w + p.b ≤ minT1) (h2 : p.w ≤ minT2) (h3 : p.w + p.adjBit ≤ minT3)
    (h3L : p.w + p.adjLast ≤ minT3) (hv : validate p.t1 p.t2 p.t3 = none) :
    0 ≤ p.n1 ∧ 0 ≤ p.n2 ∧ 0 ≤ p.n3 ∧ 0 ≤ p.n3L := by
  obtain ⟨ht1, ht2, ht3⟩ := validate_none_iff.mp hv
  simp only [Params.n1, Params.n2, Params.n3, Params.n3L]
  omega

/-- The constraints on the latencies are those under which the minimum of each phase leaves room for them (R9, R126). -/
theorem Params.constraintsHold_room (h : p.constraintsHold = true) :
    p.w + p.b ≤ minT1 ∧ p.w ≤ minT2 ∧ p.w + p.adjBit ≤ minT3 ∧ p.w + p.adjLast ≤ minT3 := by
  simp only [Params.constraintsHold, Bool.and_eq_true, decide_eq_true_eq] at h
  simp only [minT1, minT2, minT3]
  omega

/-- The build check never answers `NegativeDelay`: `VALIDATE` and the constraints, tested before, exclude it (R126). -/
theorem Params.buildCheck_ne_negativeDelay (p : Params) : p.buildCheck ≠ some .negativeDelay := by
  unfold Params.buildCheck
  cases hv : validate p.t1 p.t2 p.t3 with
  | some e =>
    have he : e = .timingInfeasible := by
      unfold validate at hv
      split at hv <;> cases hv
      rfl
    simp [he]
  | none =>
    by_cases hc : p.constraintsHold = true
    · obtain ⟨h1, h2, h3, h3L⟩ := Params.constraintsHold_room hc
      obtain ⟨n1, n2, n3, n3L⟩ := Params.delays_nonneg_of_validate h1 h2 h3 h3L hv
      have hn : p.delayNegative = false := by simp [Params.delayNegative, n1, n2, n3, n3L]
      simp [hc, hn]
    · simp [hc]

/-- Resolving a timing source fails only on the clock (R120). -/
theorem TimingSource.resolve_error {src : TimingSource} (h : src.resolve = .error e) : e = .clockOutOfRange := by
  have clock {ns f : Nat} {e : BuildError} (h : ns2cyc ns f = .error e) : e = .clockOutOfRange := by
    unfold ns2cyc at h
    split at h <;> cases h
    rfl
  unfold TimingSource.resolve at h
  split at h
  · cases h
  · split at h <;> cases h <;> exact clock ‹_›

/-- A build that fails on resolved phases fails with the error of the build check. -/
theorem build_error {src : TimingSource} (h : build src p = .error e) :
    src.resolve = .error e ∨ ∃ q : Params, q.buildCheck = some e := by
  unfold build at h
  split at h
  · cases h; exact .inl ‹_›
  · dsimp only at h
    split at h <;> cases h
    exact .inr ⟨_, ‹_›⟩

/-- Settles O10: the delays by `Params.delays_nonneg_of_validate`, the error by `Params.buildCheck_ne_negativeDelay`; the
thresholds are tight by arithmetic. -/
theorem validationKeepsDelaysNonNegative : Obligations.ValidationKeepsDelaysNonNegative := by
  unfold Obligations.ValidationKeepsDelaysNonNegative
  refine ⟨fun p h1 h2 h3 h3L => Params.delays_nonneg_of_validate h1 h2 h3 h3L, fun src p h => ?error,
    fun p hw hb hlast => ?tight⟩
  case error =>
    obtain hres | ⟨q, hq⟩ := build_error h
    · cases TimingSource.resolve_error hres
    · exact q.buildCheck_ne_negativeDelay hq
  case tight =>
    simp only [Params.n1, Params.n2, Params.n3L]
    omega

end Sys2Proof
end

section
/-! PROOFS. Each element of state and the instructions that write it (10_state.md R21 to R39). -/

namespace Sys2Proof.Machine

variable {s t : State} {i : Instr}

/-- Settles O37: the next state of each instruction, by the lemma of its operation, differs from the state before in the
elements it writes. -/
theorem eachRegisterHasOnlyItsWriters : Obligations.EachRegisterHasOnlyItsWriters := by
  unfold Obligations.EachRegisterHasOnlyItsWriters
  intro i s t h
  cases i with
  | reservedCommand11 | reservedUop14 | reservedUop15 => cases h
  | nop | dirout | cache | aenter | aleave | delay | testb | shift => cases h; simp
  | init | showargb =>
    obtain ⟨-, rfl⟩ | ⟨-, ht⟩ := State.whenIdle_next h
    · simp
    · cases ht; simp
  | showrgb => obtain ⟨-, rfl⟩ | ⟨-, -, rfl⟩ := execShowrgb_next h <;> simp
  | snap => obtain ⟨-, rfl⟩ := execSnap_next h; simp
  | setlo | sethi => obtain ⟨-, rfl⟩ := thenFinish_portWrite_next h; simp
  | cdrop => obtain ⟨-, -, rfl⟩ | ⟨-, rfl⟩ := execCdrop_next h <;> simp
  | first | next => obtain ⟨-, rfl⟩ | ⟨v, -, -, -, rfl⟩ := State.loadByte_next h <;> simp

/-- Settles O39: an instruction that keeps the port adds at most one event of its issue cycle, and a writer of the port
adds its write. -/
theorem eventsCarryTheIssueCycle : Obligations.EventsCarryTheIssueCycle := by
  unfold Obligations.EventsCarryTheIssueCycle
  intro i s t h
  obtain ⟨-, hev | ⟨e, -, hcycle, hev⟩⟩ | ⟨v, -, -, hev⟩ := exec_port_events h
  · exact .inl hev
  · exact .inr ⟨e, hev, hcycle⟩
  · exact .inr ⟨_, hev, rfl⟩

/-! ### What a step while busy leaves -/

/-- No micro-operation writes the command port (R210). -/
theorem exec_uop_cmds {u : MicroOp} (h : exec u.instr s = .next t) : t.cmds = s.cmds := by
  obtain ⟨-, -, -, -, -, -, -, -, -, hcmds, -⟩ := eachRegisterHasOnlyItsWriters u.instr s t h
  cases u <;> exact hcmds nofun nofun nofun

/-- Everything a step can do while busy when no other agent moves and it answers a next state: the micro-operation of the
position runs, or an unrolled bit ends (R30). -/
theorem step_quiet_busy_next (hd : s.dueMove = none) (hb : s.seq ≠ .idle) (h : step s = .next t) :
    (∃ u, uopAt s.cfg.toParams s.seq s.j = some u ∧ exec u.instr s = .next t) ∨
      uopAt s.cfg.toParams s.seq s.j = none ∧ t = s.bitEnd := by
  cases hu : uopAt s.cfg.toParams s.seq s.j with
  | some u => exact .inl ⟨u, rfl, (step_uop hd rfl hb hu).symm.trans h⟩
  | none =>
    rw [step_bitEnd hd rfl hb hu] at h
    cases h
    exact .inr ⟨rfl, rfl⟩

/-- The only act of another agent that a busy machine survives is a reset (R272). -/
theorem State.land_busy_next {act : AgentAct} (hb : s.seq ≠ .idle) (h : s.land act = .next t) :
    ∃ b v, t = s.systemReset b v := by
  obtain ⟨v, -, hq, -⟩ | ⟨b, -, hq, -⟩ | ⟨a, v, -, hq, -⟩ | ⟨a, -, hq, -⟩ | ⟨b, v, -, ht⟩ := State.land_next h
  · exact absurd hq hb
  · exact absurd hq hb
  · exact absurd hq hb
  · exact absurd hq hb
  · exact ⟨b, v, ht⟩

/-- Settles O35: a reset keeps the command port, and so does what the position of a busy machine does. -/
theorem busyEngineKeepsThePresentedCommands : Obligations.BusyEngineKeepsThePresentedCommands := by
  unfold Obligations.BusyEngineKeepsThePresentedCommands
  intro s t hb h
  cases hd : s.dueMove with
  | some due =>
    rw [step_due hd] at h
    obtain ⟨b, v, rfl⟩ := State.land_busy_next (s := { s with agents := due.2 }) hb h
    rfl
  | none =>
    obtain ⟨u, -, hexec⟩ | ⟨-, rfl⟩ := step_quiet_busy_next hd hb h
    · exact exec_uop_cmds hexec
    · rfl

end Sys2Proof.Machine
end

section
/-! PROOFS. What is issued and what it does at its position: the remaining instructions, the table of positions, and the
step (10_state.md R30, 41_port_ops.md R143, 42_bit_encoder.md R167, 43_frame_transmitter.md R191, 44_commands.md R210). -/

namespace Sys2Proof.Machine

variable {s : State}

/-- Settles O12: `exec_init` and `exec_showargb` at `IDLE`; off `IDLE` by `State.whenIdle_busy`. -/
theorem commandsAreAcceptedOnlyAtIdle : Obligations.CommandsAreAcceptedOnlyAtIdle := by
  unfold Obligations.CommandsAreAcceptedOnlyAtIdle
  exact ⟨fun _ => exec_init, fun _ => exec_showargb, fun _ hb =>
    ⟨State.whenIdle_busy _ hb, State.whenIdle_busy _ hb, fun _ _ => State.whenIdle_busy _ hb⟩⟩

/-- Settles O17: the cycles of `NOP` and `IDLE`, by its meaning. -/
theorem nopOnlyTakesTime : Obligations.NopOnlyTakesTime := by
  unfold Obligations.NopOnlyTakesTime
  exact fun _ => rfl

/-- Settles O20: `exec_snap_at` at `F1`. -/
theorem snapDerivesHiAndLo : Obligations.SnapDerivesHiAndLo := by
  unfold Obligations.SnapDerivesHiAndLo
  exact fun _ hq hn => exec_snap_at hn hq

/-! ### Refusals and faults -/

/-- A port that `PORT_C` does not name cannot be read. -/
theorem State.portRead_unnamed (h : s.portC ≠ s.cfg.portId) : s.portRead = none := by
  simp [State.portRead, State.portNamed, h]

/-- A port that `PORT_C` does not name cannot be written (log 12). -/
theorem State.portWrite_unnamed (v : Byte) (h : s.portC ≠ s.cfg.portId) : s.portWrite v = .refused .portNotNamed := by
  simp [State.portWrite, State.portNamed, h]

/-- Settles O24: the read of `SNAP` and the writes of the three others meet a port that is not named. -/
theorem portAccessNeedsTheCachedIdentity : Obligations.PortAccessNeedsTheCachedIdentity := by
  unfold Obligations.PortAccessNeedsTheCachedIdentity
  intro s h
  have write (v : Byte) : thenFinish s.cfg.w (s.portWrite v) = .refused .portNotNamed := by
    rw [State.portWrite_unnamed v h, thenFinish]
  refine ⟨?snap, write s.lo, write s.hi, fun hbit => (exec_cdrop_zero hbit).trans (write s.lo)⟩
  case snap => rw [exec, execSnap, State.portRead_unnamed h]

/-- Settles O30: `State.loadByte_outside` for both loads. -/
theorem loadsOutsideTheFrameFault : Obligations.LoadsOutsideTheFrameFault := by
  unfold Obligations.LoadsOutsideTheFrameFault
  exact fun _ h0 h => ⟨State.loadByte_outside h0 h, State.loadByte_outside h0 h⟩

/-- Settles O31: `exec_aenter_at` at `F0`; `ALEAVE` goes to `IDLE` from any position. -/
theorem atomicBracketWritesIe : Obligations.AtomicBracketWritesIe := by
  unfold Obligations.AtomicBracketWritesIe
  exact fun _ => ⟨exec_aenter_at, rfl⟩

/-! ### Positions and steps -/

/-- The operand of `TESTB` is a bit of a byte (42_bit_encoder.md R162). -/
theorem testedBit_lt (p : Params) (j : BitIndex) : testedBit p j < 8 := by
  cases hp : p.strategy with
  | unrolled => rw [testedBit_unrolled hp]; omega
  | byteLoop => rw [testedBit_byteLoop hp]; decide

/-- Settles O32: the table of positions, with `B8` by the three lemmas about it. -/
theorem eachPositionNamesItsMicroOperation : Obligations.EachPositionNamesItsMicroOperation := by
  unfold Obligations.EachPositionNamesItsMicroOperation
  exact fun p j => ⟨rfl, rfl, rfl, rfl, rfl, rfl, rfl, rfl, rfl, ⟨_, rfl⟩, ⟨_, testedBit_lt p j, rfl⟩, rfl, ⟨_, rfl⟩, rfl,
    ⟨_, rfl⟩, fun hj => hj ▸ uopAt_b8_last p, fun hj hp => uopAt_b8_byteLoop hp hj, fun hj hp => uopAt_b8_unrolled hp hj,
    rfl⟩

/-- At `IDLE`, with no command presented yet, a step passes one cycle (log 8). -/
theorem step_waits (hd : s.dueMove = none) (hq : s.seq = .idle) (h : ∀ c, s.cmds.head? = some c → s.cyc < c.since) :
    step s = .next (s.tick 1) := by
  have hissue : s.issue = .waits := by
    cases hc : s.cmds with
    | nil => simp [State.issue, State.busy, hq, hc]
    | cons c rest =>
      have hsince : s.cyc < c.since := h c (by rw [hc, List.head?_cons])
      simp [State.issue, State.busy, hq, hc, hsince]
  simp [step, hd, hissue]

/-- At `IDLE`, a presented number that is no command word is refused (log 16). -/
theorem step_malformed {c : Presented} {rest : List Presented} {e : DecodeError} (hd : s.dueMove = none)
    (hq : s.seq = .idle) (hc : s.cmds = c :: rest) (hsince : c.since ≤ s.cyc)
    (he : decodeCommand s.cfg.toParams c.word = .error e) : step s = .refused (.malformedCommand e) := by
  have hissue : s.issue = .malformed e := by simp [State.issue, State.busy, hq, hc, Nat.not_lt.mpr hsince, he]
  simp [step, hd, hissue]

/-- Settles O33: a lemma for each of the five things a step does when no other agent moves. -/
theorem stepRunsTheIssuedInstruction : Obligations.StepRunsTheIssuedInstruction := by
  unfold Obligations.StepRunsTheIssuedInstruction
  exact ⟨fun _ _ hd hb hu => step_uop hd rfl hb hu, fun _ _ => step_presented,
    fun _ hd hb hu => step_bitEnd hd rfl hb hu, fun _ => step_waits, fun _ _ _ _ => step_malformed⟩

end Sys2Proof.Machine
end

section
/-! PROOFS. Moves of other agents, reset among them (70_reset_and_hazards.md R260, R272, R274). -/

namespace Sys2Proof.Machine

variable {s : State} {a : Nat} {f : Memory → Memory}

/-- The acts that change the machine while it is busy, but for reset, and what they are answered with (R272, log 11). -/
theorem State.land_busy (hb : s.seq ≠ .idle) :
    (∀ v, s.land (.writePort v) = .fault .portWrittenDuringFrame) ∧
    (∀ b, s.land (.writeIe b) = .fault .ieWrittenDuringFrame) ∧
    (∀ a v, s.land (.writeMem a v) = .refused .memoryMoveWhileBusy) ∧
    (∀ a, s.land (.disown a) = .refused .memoryMoveWhileBusy) := by
  simp [State.land, State.hostMemory, State.busy, hb]

/-- At `IDLE` a write of `PORT` or `IE` takes effect (R272). -/
theorem State.land_idle (hq : s.seq = .idle) :
    (∀ v, s.land (.writePort v) = .next { s with port := v }) ∧
    (∀ b, s.land (.writeIe b) = .next { s with ie := b }) := by
  simp [State.land, State.busy, hq]

/-- At `IDLE` the host changes frame memory inside the frame space (R274). -/
theorem State.hostMemory_inside (hq : s.seq = .idle) (ha : a < 2 ^ s.cfg.addrW) :
    s.hostMemory a f = .next { s with mem := f s.mem } := by
  simp [State.hostMemory, State.busy, hq, Nat.not_le.mpr ha]

/-- Outside the frame space there is nothing to change (log 11). -/
theorem State.hostMemory_outside (hq : s.seq = .idle) (ha : 2 ^ s.cfg.addrW ≤ a) :
    s.hostMemory a f = .refused .noSuchAddress := by
  simp [State.hostMemory, State.busy, hq, ha]

/-- Settles O41: the due move is what the step does; `State.land_idle`, `State.hostMemory_inside` and
`State.hostMemory_outside` at `IDLE`, `State.land_busy` while busy. -/
theorem otherAgentsMayActOnlyAtIdle : Obligations.OtherAgentsMayActOnlyAtIdle := by
  unfold Obligations.OtherAgentsMayActOnlyAtIdle
  intro s m rest hm hdue
  have lands {act : AgentAct} (ha : m.act = act) : step s = State.land act { s with agents := rest } :=
    ha ▸ step_due (State.dueMove_due hm hdue)
  have idle (hq : s.seq = .idle) := State.land_idle (s := { s with agents := rest }) hq
  have busy (hb : s.seq ≠ .idle) := State.land_busy (s := { s with agents := rest }) hb
  have inside {a : Nat} (f : Memory → Memory) (hq : s.seq = .idle) (ha : a < 2 ^ s.cfg.addrW) :=
    State.hostMemory_inside (s := { s with agents := rest }) (f := f) hq ha
  have outside {a : Nat} (f : Memory → Memory) (hq : s.seq = .idle) (ha : 2 ^ s.cfg.addrW ≤ a) :=
    State.hostMemory_outside (s := { s with agents := rest }) (f := f) hq ha
  refine ⟨fun v ha => ?port, fun b ha => ?ie, fun a v ha => ?write, fun a ha => ?disown⟩ <;> rw [lands ha]
  case port => exact ⟨fun hq => (idle hq).1 v, fun hb => (busy hb).1 v⟩
  case ie => exact ⟨fun hq => (idle hq).2 b, fun hb => (busy hb).2.1 b⟩
  case write =>
    exact ⟨fun hq hin => ⟨_, inside (·.write a v) hq hin, Memory.read_write_same _ _ _,
      fun b hne => Memory.read_write_other _ v hne, rfl⟩, outside (·.write a v), fun hb => (busy hb).2.2.1 a v⟩
  case disown =>
    exact ⟨fun hq hin => ⟨_, inside (·.disown a) hq hin, Memory.read_disown_same _ _,
      fun b hne => Memory.read_disown_other _ hne, rfl⟩, outside (·.disown a), fun hb => (busy hb).2.2.2 a⟩

/-- Settles O42: the step looks at every cycle of the micro-operation, so the move is due, and `State.land_busy` says what
becomes of it. -/
theorem writesInsideAMicroOperationBreakTheRun : Obligations.WritesInsideAMicroOperationBreakTheRun := by
  unfold Obligations.WritesInsideAMicroOperationBreakTheRun
  intro s m rest u hm hb hu hdue
  have hwindow : m.cycle < s.cyc + s.window := by rw [State.window_uop hb hu]; omega
  have lands {act : AgentAct} (ha : m.act = act) : step s = State.land act { s with agents := rest } :=
    ha ▸ step_due (State.dueMove_due hm hwindow)
  obtain ⟨hport, hie, hwrite, hdisown⟩ := State.land_busy (s := { s with agents := rest }) hb
  exact ⟨fun v ha => (lands ha).trans (hport v), fun b ha => (lands ha).trans (hie b),
    fun a v ha => (lands ha).trans (hwrite a v), fun a ha => (lands ha).trans (hdisown a)⟩

/-- Settles O43: the due reset is what the step does, and `State.systemReset` is read element by element. -/
theorem resetPutsEveryElementToItsValue : Obligations.ResetPutsEveryElementToItsValue := by
  unfold Obligations.ResetPutsEveryElementToItsValue
  intro s m rest b v hm hdue ha
  have hstep : step s = .next (State.systemReset b v { s with agents := rest }) := by
    rw [step_due (State.dueMove_due hm hdue), ha, State.land]
  exact ⟨_, hstep, rfl, rfl, rfl, rfl, rfl, rfl, rfl, rfl, rfl, rfl, rfl, rfl, rfl⟩

end Sys2Proof.Machine
end

section
/-! PROOFS. The invariant: what holds at every position, what holds at each, and that every step keeps both (10_state.md
section 2, 41_port_ops.md R144, 42_bit_encoder.md R161 to R165, 43_frame_transmitter.md R196, R201). -/

namespace Sys2Proof.Machine

variable {s t : State} {q : Seq} {i : Instr}

/-! ### The invariant, position by position -/

/-- What holds at every position, of memory, widths and events. -/
structure SteadyInv (s : State) : Prop where
  memory : s.mem.wf
  memorySpace : s.mem.inSpace (2 ^ s.cfg.addrW)
  ptr : s.ptr < 2 ^ s.cfg.addrW
  rem : s.rem < 2 ^ (s.cfg.countW + 2)
  delay : s.dly = 0
  ordered : s.ev.Pairwise (fun a b => a.cycle < b.cycle)
  past : ∀ e ∈ s.ev, e.cycle < s.cyc

/-- After `INIT` the cached identity is the pin's and the pin is an output (44_commands.md R211). -/
def State.PinCached (s : State) : Prop :=
  s.inited = true → s.maskC = s.cfg.mask ∧ s.portC = s.cfg.portId ∧ s.dir = true

/-- What holds in a frame from `SNAP` on: interrupts are off, `HI` and `LO` differ in the pin's bit only, and the other
pins keep their snapshot value. -/
structure Snapped (s : State) : Prop where
  inited : s.inited = true
  off : s.ie = false
  hi : s.hi = s.lo ||| s.cfg.mask
  lo : s.lo &&& s.cfg.mask = 0
  others : s.port &&& ~~~s.cfg.mask = s.lo &&& ~~~s.cfg.mask

/-- What the invariant says of position `q`, besides `SteadyInv` and `State.PinCached`. -/
def ClaimAt (q : Seq) (s : State) : Prop :=
  match q with
  | .idle | .i0 | .a0 => True
  | .i1 => s.dir = true
  | .f0 => s.inited = true
  | .f1 => s.inited = true ∧ s.ie = false
  | .f2 => Snapped s
  | .f3 => Snapped s ∧ s.port = s.lo
  | .b1 | .b7 | .b8 => Snapped s ∧ s.port = s.lo ∧ s.ptr + s.rem ≤ 2 ^ s.cfg.addrW
  | .b2 | .b3 | .b4 => Snapped s ∧ s.port = s.hi ∧ s.ptr + s.rem ≤ 2 ^ s.cfg.addrW
  | .b5 | .b6 => Snapped s ∧ s.port = (if s.tbit then s.hi else s.lo) ∧ s.ptr + s.rem ≤ 2 ^ s.cfg.addrW
  | .f4 => Snapped s ∧ s.port = s.lo ∧ s.rem = 0

theorem ClaimAt.inited (h : ClaimAt q s) (hq : q.inFrame = true) : s.inited = true := by
  cases q with
  | idle | i0 | i1 | a0 => cases hq
  | f0 => exact h
  | f1 => exact h.1
  | f2 => exact h.inited
  | _ => exact h.1.inited

theorem ClaimAt.off (h : ClaimAt q s) (hq : q.inAtomic = true) : s.ie = false := by
  cases q with
  | idle | i0 | i1 | a0 | f0 => cases hq
  | f1 => exact h.2
  | f2 => exact h.off
  | _ => exact h.1.off

theorem ClaimAt.snapped (h : ClaimAt q s) (hq : q.snapped = true) : Snapped s := by
  cases q with
  | idle | i0 | i1 | a0 | f0 | f1 => cases hq
  | f2 => exact h
  | _ => exact h.1

theorem ClaimAt.noWrap (h : ClaimAt q s) (hq : q.inBit = true) : s.ptr + s.rem ≤ 2 ^ s.cfg.addrW := by
  cases q with
  | idle | i0 | i1 | a0 | f0 | f1 | f2 | f3 | f4 => cases hq
  | _ => exact h.2.2

theorem Inv.steady (h : Inv s) : SteadyInv s := { h with }

theorem Inv.claim (h : Inv s) : ClaimAt s.seq s := by
  have snapped (hq : s.seq.snapped = true) : Snapped s := by
    obtain ⟨hatomic, -⟩ := Bool.and_eq_true_iff.mp hq
    obtain ⟨hframe, -⟩ := Bool.and_eq_true_iff.mp hatomic
    obtain ⟨hhi, hlo⟩ := h.snapshot hq
    exact ⟨h.frame hframe, h.atomic hatomic, hhi, hlo, h.others hq⟩
  have inSnapped {q : Seq} (hq : s.seq = q) (hs : q.snapped = true) : Snapped s := snapped (hq ▸ hs)
  have noWrap {q : Seq} (hq : s.seq = q) (hb : q.inBit = true) : s.ptr + s.rem ≤ 2 ^ s.cfg.addrW := h.noWrap (hq ▸ hb)
  cases hq : s.seq with
  | idle | i0 | a0 => trivial
  | i1 => exact h.output hq
  | f0 => exact h.frame (hq ▸ rfl)
  | f1 => exact ⟨h.frame (hq ▸ rfl), h.atomic (hq ▸ rfl)⟩
  | f2 => exact inSnapped hq rfl
  | f3 => exact ⟨inSnapped hq rfl, h.low (by simp [hq])⟩
  | b1 | b7 | b8 => exact ⟨inSnapped hq rfl, h.low (by simp [hq]), noWrap hq rfl⟩
  | b2 | b3 | b4 => exact ⟨inSnapped hq rfl, h.raised (by simp [hq]), noWrap hq rfl⟩
  | b5 | b6 => exact ⟨inSnapped hq rfl, h.data (by simp [hq]), noWrap hq rfl⟩
  | f4 => exact ⟨inSnapped hq rfl, h.low (by simp [hq]), h.ends hq⟩

theorem inv_of_claim (h : SteadyInv s) (hc : s.PinCached) (hp : ClaimAt s.seq s) : Inv s :=
  have claim {q : Seq} (hq : s.seq = q) : ClaimAt q s := hq ▸ hp
  { h with
    cached := hc
    output := fun hq => claim hq
    frame := hp.inited
    atomic := hp.off
    snapshot := fun hq => ⟨(hp.snapped hq).hi, (hp.snapped hq).lo⟩
    others := fun hq => (hp.snapped hq).others
    raised := by rintro (hq | hq | hq) <;> exact (claim hq).2.1
    data := by rintro (hq | hq) <;> exact (claim hq).2.1
    low := by
      rintro (hq | hq | hq | hq | hq)
      · exact (claim hq).2
      all_goals exact (claim hq).2.1
    ends := fun hq => (claim hq).2.2
    noWrap := hp.noWrap }

/-! ### Reset -/

theorem SteadyInv.resetWith (c : Cfg) (b : Bool) (v : Byte) {m : Memory} (hm : m.wf) (hs : m.inSpace (2 ^ c.addrW)) :
    SteadyInv (State.resetWith c b v m) where
  memory := hm
  memorySpace := hs
  ptr := Nat.two_pow_pos _
  rem := Nat.two_pow_pos _
  delay := rfl
  ordered := .nil
  past := nofun

/-- Settles O45: reset is at `IDLE` before `INIT`, so only `SteadyInv` claims something of it. -/
theorem resetMeetsTheInvariant : Obligations.ResetMeetsTheInvariant := by
  unfold Obligations.ResetMeetsTheInvariant
  have reset (c : Cfg) (b : Bool) (v : Byte) (m : Memory) (hm : m.wf) (hs : m.inSpace (2 ^ c.addrW)) :
      Inv (State.resetWith c b v m) := inv_of_claim (.resetWith c b v hm hs) nofun trivial
  exact ⟨reset, reset _ _ _ _ .nil (Memory.inSpace_nil _)⟩

/-! ### What holds everywhere -/

/-- An instruction that adds an event takes cycles. -/
theorem latency_pos_of_event (h : exec i s = .next t) : t.ev = s.ev ∨ 0 < latency s.cfg.toParams i := by
  obtain ⟨-, hw, -, -, -, hlast, -, -, -, henter, -, hload, hleave, hdir, -⟩ := s.cfg.latencies
  cases i with
  | reservedCommand11 | reservedUop14 | reservedUop15 => cases h
  | nop | cache | delay | testb | shift => cases h; exact .inl rfl
  | init | showargb =>
    obtain ⟨-, rfl⟩ | ⟨-, ht⟩ := State.whenIdle_next h
    · exact .inl rfl
    · cases ht; exact .inl rfl
  | showrgb => obtain ⟨-, rfl⟩ | ⟨-, -, rfl⟩ := execShowrgb_next h <;> exact .inl rfl
  | snap => obtain ⟨-, rfl⟩ := execSnap_next h; exact .inl rfl
  | dirout => exact .inr hdir
  | aenter => exact .inr henter
  | aleave => exact .inr hleave
  | setlo | sethi | cdrop => exact .inr hw
  | first => exact .inr hload
  | next => exact .inr hlast

/-- One event more, in the present cycle, before time passes: the events stay ordered and in the past. -/
theorem exec_keeps_events (hev : s.ev.Pairwise (fun a b => a.cycle < b.cycle)) (hpast : ∀ e ∈ s.ev, e.cycle < s.cyc)
    (h : exec i s = .next t) : t.ev.Pairwise (fun a b => a.cycle < b.cycle) ∧ ∀ e ∈ t.ev, e.cycle < t.cyc := by
  have hcyc := exec_cyc h
  have same (he : t.ev = s.ev) : t.ev.Pairwise (fun a b => a.cycle < b.cycle) ∧ ∀ e ∈ t.ev, e.cycle < t.cyc := by
    rw [he]
    exact ⟨hev, fun e hm => (hpast e hm).trans_le (by omega)⟩
  obtain he | hpos := latency_pos_of_event h
  · exact same he
  · obtain he | ⟨e, he, hcycle⟩ := eventsCarryTheIssueCycle i s t h
    · exact same he
    · rw [he]
      refine ⟨List.pairwise_append.mpr ⟨hev, List.pairwise_singleton .., fun a ha b hb => ?_⟩, fun a ha => ?_⟩
      · obtain rfl := List.mem_singleton.mp hb
        exact (hpast a ha).trans_eq hcycle.symm
      · obtain ha | ha := List.mem_append.mp ha
        · exact (hpast a ha).trans_le (by omega)
        · obtain rfl := List.mem_singleton.mp ha
          omega

/-- `PTR` and `REM` keep their widths: `SHOWRGB` and the loads truncate (10_state.md R26, R27). -/
theorem exec_keeps_widths (hptr : s.ptr < 2 ^ s.cfg.addrW) (hrem : s.rem < 2 ^ (s.cfg.countW + 2))
    (h : exec i s = .next t) : t.ptr < 2 ^ s.cfg.addrW ∧ t.rem < 2 ^ (s.cfg.countW + 2) := by
  have load {n : Nat} (h : s.loadByte n = .next t) : t.ptr < 2 ^ s.cfg.addrW ∧ t.rem < 2 ^ (s.cfg.countW + 2) := by
    obtain ⟨-, rfl⟩ | ⟨v, -, -, -, rfl⟩ := State.loadByte_next h
    · exact ⟨hptr, hrem⟩
    · exact ⟨Nat.mod_lt _ (Nat.two_pow_pos _), (Nat.sub_le _ _).trans_lt hrem⟩
  obtain ⟨-, -, -, hkeep, -⟩ := eachRegisterHasOnlyItsWriters i s t h
  cases i with
  | showrgb base count =>
    obtain ⟨-, rfl⟩ | ⟨-, -, rfl⟩ := execShowrgb_next h
    · exact ⟨hptr, hrem⟩
    · exact ⟨Nat.mod_lt _ (Nat.two_pow_pos _), Nat.mod_lt _ (Nat.two_pow_pos _)⟩
  | first | next => exact load h
  | _ =>
    obtain ⟨hp, hr⟩ := hkeep nofun nofun nofun
    exact ⟨hp ▸ hptr, hr ▸ hrem⟩

/-- `DELAY` leaves the counter at zero, and nothing else writes it (10_state.md R29). -/
theorem exec_keeps_dly (hd : s.dly = 0) (h : exec i s = .next t) : t.dly = 0 := by
  obtain ⟨-, -, -, -, -, -, -, -, hkeep, -⟩ := eachRegisterHasOnlyItsWriters i s t h
  cases i with
  | delay n => cases h; rfl
  | _ => exact (hkeep nofun).trans hd

theorem exec_keeps_steady (hs : SteadyInv s) (h : exec i s = .next t) : SteadyInv t := by
  obtain ⟨hmem, hcfg⟩ := exec_mem_cfg h
  obtain ⟨hordered, hpast⟩ := exec_keeps_events hs.ordered hs.past h
  obtain ⟨hptr, hrem⟩ := exec_keeps_widths hs.ptr hs.rem h
  exact ⟨hmem ▸ hs.memory, hmem ▸ hcfg ▸ hs.memorySpace, hcfg ▸ hptr, hcfg ▸ hrem, exec_keeps_dly hs.delay h, hordered,
    hpast⟩

/-! ### What the positions claim -/

theorem exec_keeps_pinCached (hc : s.PinCached) (hout : i = .cache → s.dir = true) (h : exec i s = .next t) :
    t.PinCached := by
  obtain ⟨-, -, hkeep, -, -, -, hdir, -, -, -, -, -, hcfg⟩ := eachRegisterHasOnlyItsWriters i s t h
  cases i with
  | cache => cases h; exact fun _ => ⟨rfl, rfl, hout rfl⟩
  | dirout => cases h; exact fun hi => ⟨(hc hi).1, (hc hi).2.1, rfl⟩
  | _ =>
    obtain ⟨hmask, hport, hinit⟩ := hkeep nofun
    rw [State.PinCached, hmask, hport, hinit, hdir nofun, hcfg]
    exact hc

/-- `SNAP` with the pin's mask cached (41_port_ops.md R143, R144). -/
theorem snapped_of_snap (hi : s.inited = true) (hoff : s.ie = false) (hmask : s.maskC = s.cfg.mask)
    (h : exec .snap s = .next t) : Snapped t := by
  obtain ⟨-, rfl⟩ := execSnap_next h
  have claims (v : Byte) : v ||| s.maskC = (v &&& ~~~s.maskC) ||| s.cfg.mask := hmask ▸ set_eq_cleared_or v _
  exact ⟨hi, hoff, claims s.port, hmask ▸ cleared_and_mask s.port s.maskC,
    hmask ▸ (cleared_and_not_mask s.port s.maskC).symm⟩

theorem State.loadByte_keeps_claim {n : Nat} (hs : Snapped s) (hlow : s.port = s.lo) (h : s.loadByte n = .next t) :
    ClaimAt t.seq t := by
  obtain ⟨h0, rfl⟩ | ⟨v, h0, hwrap, -, rfl⟩ := State.loadByte_next h
  · exact ⟨{ hs with }, hlow, h0⟩
  · have hptr : (s.ptr + 1) % 2 ^ s.cfg.addrW + (s.rem - 1) ≤ 2 ^ s.cfg.addrW := by
      have := Nat.mod_le (s.ptr + 1) (2 ^ s.cfg.addrW)
      omega
    exact ⟨{ hs with }, hlow, hptr⟩

/-- `SETHI` keeps the snapshot's laws: `HI` has the other pins of `LO`. -/
theorem Snapped.hi_others (h : Snapped s) : s.hi &&& ~~~s.cfg.mask = s.lo &&& ~~~s.cfg.mask := by
  rw [h.hi, set_and_not_mask]

/-- The micro-operations of `B8`: `NEXT` in the last bit of a byte, `SHIFT` in the others (R30). -/
theorem uopAt_b8 {p : Params} {j : BitIndex} {u : MicroOp} (hu : uopAt p .b8 j = some u) :
    j = 7 ∧ u = .next ∨ j ≠ 7 ∧ u = .shift := by
  by_cases hj : j = 7
  · rw [hj, uopAt_b8_last] at hu
    cases hu
    exact .inl ⟨hj, rfl⟩
  · cases hp : p.strategy with
    | byteLoop =>
      rw [uopAt_b8_byteLoop hp hj] at hu
      cases hu
      exact .inr ⟨hj, rfl⟩
    | unrolled =>
      rw [uopAt_b8_unrolled hp hj] at hu
      cases hu

/-- The micro-operation of a position leads from the claims of that position to those of the next. -/
theorem exec_uop_keeps_claim {u : MicroOp} (hc : s.PinCached) (hq : s.seq = q) (hp : ClaimAt q s)
    (hu : uopAt s.cfg.toParams q s.j = some u) (h : exec u.instr s = .next t) : ClaimAt t.seq t := by
  have next (hu : u ∉ [MicroOp.nop, .aleave, .shift, .first, .next]) : t.seq = nextSeq q :=
    hq ▸ (exec_position_of_table hu h).1
  cases q with
  | idle => cases hu
  | i0 => cases hu; rw [next (by simp)]; cases h; exact rfl
  | i1 => cases hu; rw [next (by simp)]; trivial
  | a0 | f4 => cases hu; cases h; trivial
  | f0 => cases hu; rw [next (by simp)]; cases h; exact ⟨hp, rfl⟩
  | f1 => cases hu; rw [next (by simp)]; exact snapped_of_snap hp.1 hp.2 (hc hp.1).1 h
  | f2 =>
    cases hu; rw [next (by simp)]
    obtain ⟨-, rfl⟩ := thenFinish_portWrite_next h
    exact ⟨{ hp with others := rfl }, rfl⟩
  | f3 => cases hu; exact State.loadByte_keeps_claim hp.1 hp.2 h
  | b1 =>
    cases hu; rw [next (by simp)]
    obtain ⟨hs, -, hwrap⟩ := hp
    obtain ⟨-, rfl⟩ := thenFinish_portWrite_next h
    exact ⟨{ hs with others := hs.hi_others }, rfl, hwrap⟩
  | b2 | b3 | b5 | b7 =>
    cases hu; rw [next (by simp)]; cases h
    obtain ⟨hs, hport, hwrap⟩ := hp
    exact ⟨{ hs with }, hport, hwrap⟩
  | b4 =>
    cases hu; rw [next (by simp)]
    obtain ⟨hs, hport, hwrap⟩ := hp
    obtain ⟨hbit, -, rfl⟩ | ⟨hbit, rfl⟩ := execCdrop_next h
    · exact ⟨{ hs with others := rfl }, by simp [hbit], hwrap⟩
    · exact ⟨{ hs with }, by simp [hbit, hport], hwrap⟩
  | b6 =>
    cases hu; rw [next (by simp)]
    obtain ⟨hs, -, hwrap⟩ := hp
    obtain ⟨-, rfl⟩ := thenFinish_portWrite_next h
    exact ⟨{ hs with others := rfl }, rfl, hwrap⟩
  | b8 =>
    obtain ⟨hs, hlow, hwrap⟩ := hp
    obtain ⟨-, rfl⟩ | ⟨-, rfl⟩ := uopAt_b8 hu
    · exact State.loadByte_keeps_claim hs hlow h
    · cases h
      exact ⟨{ hs with }, hlow, hwrap⟩

/-- The only busy position without a micro-operation is `B8`. -/
theorem uopAt_none {p : Params} {j : BitIndex} (hb : q ≠ .idle) (hu : uopAt p q j = none) : q = .b8 := by
  cases q with
  | idle => exact absurd rfl hb
  | b8 => rfl
  | _ => cases hu

/-- A command leads from `IDLE` to the claims of its first position: a frame starts only after `INIT` (R214). -/
theorem exec_command_claim (hq : s.seq = .idle) (hi : s.presents i) (h : exec i s = .next t) : ClaimAt t.seq t := by
  obtain ⟨c, rest, -, -, hdec⟩ := hi
  obtain rfl | ⟨base, count, rfl⟩ | rfl | rfl := decodeCommand_ok hdec
  · rw [exec_init hq] at h; cases h; trivial
  · obtain ⟨hb, -⟩ | ⟨-, hinit, rfl⟩ := execShowrgb_next h
    · exact absurd hq hb
    · exact hinit
  · rw [exec_showargb hq] at h; cases h; trivial
  · cases h

/-- `CACHE` issues at `I1` only. -/
theorem uopAt_cache {p : Params} {j : BitIndex} {u : MicroOp} (hu : uopAt p q j = some u) (hi : u.instr = .cache) :
    q = .i1 := by
  cases q with
  | idle => cases hu
  | i1 => rfl
  | b8 => obtain ⟨-, rfl⟩ | ⟨-, rfl⟩ := uopAt_b8 hu <;> cases hi
  | _ => cases hu; cases hi

/-- What another agent does keeps the cached identity and the claims: it leaves the machine at `IDLE`. -/
theorem State.land_keeps_claim {act : AgentAct} (hc : s.PinCached) (h : s.land act = .next t) :
    t.PinCached ∧ ClaimAt t.seq t := by
  have idle (ht : t.seq = .idle) : ClaimAt t.seq t := ht.symm ▸ trivial
  obtain ⟨v, -, hq, rfl⟩ | ⟨b, -, hq, rfl⟩ | ⟨a, v, -, hq, -, rfl⟩ | ⟨a, -, hq, -, rfl⟩ | ⟨b, v, -, rfl⟩ :=
    State.land_next h
  · exact ⟨hc, idle hq⟩
  · exact ⟨hc, idle hq⟩
  · exact ⟨hc, idle hq⟩
  · exact ⟨hc, idle hq⟩
  · exact ⟨nofun, trivial⟩

/-- Every step keeps the cached identity and leads from the claims of its position to those of the next. -/
theorem step_keeps_claim (hc : s.PinCached) (hp : ClaimAt s.seq s) (h : step s = .next t) :
    t.PinCached ∧ ClaimAt t.seq t := by
  cases hd : s.dueMove with
  | some due =>
    rw [step_due hd] at h
    exact State.land_keeps_claim (s := { s with agents := due.2 }) hc h
  | none =>
    by_cases hq : s.seq = .idle
    · obtain rfl | ⟨i, hi, hexec⟩ := step_idle_next hd hq h
      · exact ⟨hc, hq.symm ▸ trivial⟩
      · refine ⟨exec_keeps_pinCached hc ?command hexec, exec_command_claim hq hi hexec⟩
        rintro rfl
        obtain ⟨c, rest, -, -, hdec⟩ := hi
        simpa using decodeCommand_ok hdec
    · obtain ⟨u, hu, hexec⟩ | ⟨hu, rfl⟩ := step_quiet_busy_next hd hq h
      · refine ⟨exec_keeps_pinCached hc (fun hi => ?output) hexec, exec_uop_keeps_claim hc rfl hp hu hexec⟩
        rw [uopAt_cache hu hi] at hp
        exact hp
      · rw [uopAt_none hq hu] at hp
        obtain ⟨hs, hlow, hwrap⟩ := hp
        exact ⟨hc, { hs with }, hlow, hwrap⟩

/-! ### The whole invariant -/

/-- Another agent changes memory inside the frame space only, or resets the machine. -/
theorem State.land_keeps_steady {act : AgentAct} (hs : SteadyInv s) (h : s.land act = .next t) : SteadyInv t := by
  obtain ⟨v, -, -, rfl⟩ | ⟨b, -, -, rfl⟩ | ⟨a, v, -, -, ha, rfl⟩ | ⟨a, -, -, -, rfl⟩ | ⟨b, v, -, rfl⟩ :=
    State.land_next h
  · exact { hs with }
  · exact { hs with }
  · exact { hs with
      memory := Memory.write_wf _ _ _ hs.memory
      memorySpace := Memory.write_inSpace v hs.memorySpace ha }
  · exact { hs with
      memory := Memory.disown_wf _ _ hs.memory
      memorySpace := Memory.disown_inSpace a hs.memorySpace }
  · exact { SteadyInv.resetWith s.cfg b v hs.memory hs.memorySpace with }

theorem step_keeps_steady (hs : SteadyInv s) (h : step s = .next t) : SteadyInv t := by
  obtain ⟨m, rest, -, hland⟩ | ⟨i, -, -, hexec⟩ | ⟨-, -, rfl⟩ | ⟨-, -, rfl⟩ := step_next h
  · exact State.land_keeps_steady (s := { s with agents := rest }) { hs with } hland
  · exact exec_keeps_steady hs hexec
  · exact { hs with }
  · exact { hs with past := fun e he => (hs.past e he).trans (Nat.lt_succ_self _) }

/-- Settles O46: what holds everywhere by `step_keeps_steady`, the rest position by position by `step_keeps_claim`. -/
theorem everyStepKeepsTheInvariant : Obligations.EveryStepKeepsTheInvariant := by
  unfold Obligations.EveryStepKeepsTheInvariant
  intro s t h hstep
  obtain ⟨hc, hp⟩ := step_keeps_claim h.cached h.claim hstep
  exact inv_of_claim (step_keeps_steady h.steady hstep) hc hp

/-! ### The line -/

/-- A port write in a frame puts the pin's bit of its value on the line. -/
theorem Inv.line_of_write {v : Byte} {n : Nat} (h : Inv s) (hf : s.seq.inFrame = true)
    (hw : thenFinish n (s.portWrite v) = .next t) : t.line = some (decide (v &&& s.cfg.mask ≠ 0)) := by
  obtain ⟨-, -, hdir⟩ := h.cached (h.frame hf)
  obtain ⟨-, rfl⟩ := thenFinish_portWrite_next hw
  exact State.line_driven (s := State.finish n { s with port := v, ev := s.ev ++ [.wr s.cyc v] }) hdir

/-- Settles O49: `HI` has the pin's bit and `LO` has it not, and `Inv.line_of_write` puts it on the line. -/
theorem raiseAndSettleSetTheLine : Obligations.RaiseAndSettleSetTheLine := by
  unfold Obligations.RaiseAndSettleSetTheLine
  refine ⟨fun s t h hq hw => ?raise, fun s t h hq hw => ?settle, fun s hdir => ?undriven⟩
  case raise =>
    obtain ⟨hhi, -⟩ := h.snapshot (hq ▸ rfl)
    have hbit : s.hi &&& s.cfg.mask ≠ 0 := by
      rw [hhi, set_and_mask]
      exact s.cfg.mask_ne_zero
    rw [h.line_of_write (hq ▸ rfl) hw, decide_eq_true hbit]
  case settle =>
    have hsnapped : s.seq.snapped = true := by obtain hq | hq := hq <;> exact hq ▸ rfl
    have hframe : s.seq.inFrame = true := by obtain hq | hq := hq <;> exact hq ▸ rfl
    obtain ⟨-, hlo⟩ := h.snapshot hsnapped
    rw [h.line_of_write hframe hw, decide_eq_false (not_not_intro hlo)]
  case undriven => simp [State.line, hdir]

end Sys2Proof.Machine
end

section
/-! PROOFS. What a frame shows: its schedule, its reads, and the same events with either strategy (42_bit_encoder.md R173,
43_frame_transmitter.md R193, R206). -/

namespace Sys2Proof.Machine

variable {s : State} {t base count : Nat} {hi lo : Byte} {bytes : List Byte}

/-- Settles O52: the trace of `runsTo_frame`. -/
theorem frameIssuesExactlyItsSchedule : Obligations.FrameIssuesExactlyItsSchedule := by
  unfold Obligations.FrameIssuesExactlyItsSchedule
  intro s base count bytes h
  obtain ⟨_, _, _, hrun, htrace⟩ := runsTo_frame h
  exact ⟨_, _, hrun, rfl, rfl, htrace⟩

/-! ### Reads -/

/-- The events of bits are port writes, no reads. -/
theorem readAddrs_bitsEvents (p : Params) (c : Nat) (bs : List Bool) :
    (bitsEvents p hi lo c bs).filterMap Event.readAddr = [] := by
  induction bs generalizing c with
  | nil => rfl
  | cons b bs ih =>
    have bit : (bitEvents p hi lo c b).filterMap Event.readAddr = [] := by cases b <;> rfl
    rw [bitsEvents, List.filterMap_append, bit, ih, List.nil_append]

theorem readAddrs_cons_rd (c a : Nat) (l : List Event) :
    (Event.rd c a :: l).filterMap Event.readAddr = a :: l.filterMap Event.readAddr := rfl

/-- After the byte at `base`, each further byte is read once, in increasing address (R196). -/
theorem readAddrs_bytesEvents (p : Params) (c base : Nat) (v : Byte) (us : List Byte) :
    (bytesEvents p hi lo c base (v :: us)).filterMap Event.readAddr = List.range' (base + 1) us.length := by
  induction us generalizing v c base with
  | nil => exact readAddrs_bitsEvents ..
  | cons u us ih =>
    rw [bytesEvents, List.filterMap_append, readAddrs_bitsEvents, List.nil_append,
      readAddrs_cons_rd, ih, List.length_cons, List.range'_succ]

/-- A frame reads its bytes from `base` on, each once, in order (R206). -/
theorem readAddrs_frameEvents (p : Params) (hlen : bytes.length = 3 * count) :
    (frameEvents p hi lo t base count bytes).filterMap Event.readAddr = List.range' base (3 * count) := by
  have body : (bodyEvents p hi lo t base bytes).filterMap Event.readAddr = List.range' base bytes.length := by
    cases bytes with
    | nil => rfl
    | cons v us =>
      rw [bodyEvents, readAddrs_cons_rd, readAddrs_bytesEvents, List.length_cons, List.range'_succ]
  rw [frameEvents_eq p hlen, List.filterMap_append, List.filterMap_append, body, hlen]
  exact List.append_nil _

/-- Settles O54: `readAddrs_frameEvents` and `countP_isWr_frameEvents` for the events of `runsTo_frame`. -/
theorem frameReadsEachByteOnceInOrder : Obligations.FrameReadsEachByteOnceInOrder := by
  unfold Obligations.FrameReadsEachByteOnceInOrder
  intro s base count bytes h
  obtain ⟨_, _, _, hrun, -⟩ := runsTo_frame h
  refine ⟨_, _, _, hrun, rfl, rfl, rfl, ?reads, countP_isWr_frameEvents _ h.length⟩
  case reads => rw [readAddrs_frameEvents _ h.length, List.range'_eq_map_range]

/-! ### Strategies -/

section EitherStrategy

variable (p : Params) (strategy : Strategy) (adjBit : Nat)

theorem bitsEvents_strategy (c : Nat) (bs : List Bool) :
    bitsEvents { p with strategy := strategy, adjBit := adjBit } hi lo c bs = bitsEvents p hi lo c bs := by
  induction bs generalizing c with
  | nil => rfl
  | cons b bs ih =>
    rw [bitsEvents, ih]
    rfl

theorem bytesEvents_strategy (c base : Nat) (bytes : List Byte) :
    bytesEvents { p with strategy := strategy, adjBit := adjBit } hi lo c base bytes
      = bytesEvents p hi lo c base bytes := by
  induction bytes generalizing c base with
  | nil => rfl
  | cons v us ih =>
    cases us with
    | nil => exact bitsEvents_strategy ..
    | cons u us =>
      rw [bytesEvents, bitsEvents_strategy, ih]
      rfl

/-- The events of a frame are the same with either strategy and any `ADJ_BIT` (R173): their closed form names neither. -/
theorem frameEvents_strategy (bytes : List Byte) :
    frameEvents { p with strategy := strategy, adjBit := adjBit } hi lo t base count bytes
      = frameEvents p hi lo t base count bytes := by
  rw [frameEvents, bytesEvents_strategy]
  rfl

end EitherStrategy

/-- The premises of a frame hold of the same state on a build that differs in its strategy and `ADJ_BIT` only. -/
theorem FramePremises.withStrategy {c : Cfg} {strategy : Strategy} {adjBit : Nat} (h : FramePremises s base count bytes)
    (hc : c.toParams = { s.cfg.toParams with strategy := strategy, adjBit := adjBit }) :
    FramePremises { s with cfg := c } base count bytes where
  idle := h.idle
  ready := ⟨h.ready.inited, by rw [hc]; exact h.ready.mask, by rw [hc]; exact h.ready.port, h.ready.output⟩
  presented := by
    obtain ⟨w, rest, hw, hsince, hdec⟩ := h.presented
    exact ⟨w, rest, hw, hsince, by rw [hc]; exact hdec⟩
  fits := by rw [hc]; exact h.fits
  length := h.length
  owned := h.owned
  quiet := by rw [hc]; exact h.quiet

/-- Settles O56: both builds run the frame to its closed form, which is the same for both. -/
theorem strategiesAreObservablyEqual : Obligations.StrategiesAreObservablyEqual := by
  unfold Obligations.StrategiesAreObservablyEqual
  intro s c base count bytes h _ _ hc
  obtain ⟨_, _, _, hrun₁, -⟩ := runsTo_frame h
  obtain ⟨_, _, _, hrun₂, -⟩ := runsTo_frame (h.withStrategy hc)
  have hmask : c.mask = s.cfg.mask := by rw [hc]; rfl
  refine ⟨_, _, _, _, hrun₁, hrun₂, rfl, rfl, rfl, ?cycle, ?events, ?port⟩
  case cycle =>
    show s.cyc + frameCycles c.toParams count = s.cyc + frameCycles s.cfg.toParams count
    rw [hc]
    rfl
  case events =>
    show s.ev ++ frameEvents c.toParams (s.port ||| c.mask) (s.port &&& ~~~c.mask) s.cyc base count bytes
      = s.ev ++ frameEvents s.cfg.toParams (s.port ||| s.cfg.mask) (s.port &&& ~~~s.cfg.mask) s.cyc base count bytes
    rw [hmask, hc, frameEvents_strategy]
  case port =>
    show s.port &&& ~~~c.mask = s.port &&& ~~~s.cfg.mask
    rw [hmask]

end Sys2Proof.Machine
end

section
/-! PROOFS. The line of a frame, cycle by cycle: its pulse trace is the symbols of its bits (00_scope.md R14,
30_encoding.md R92, 43_frame_transmitter.md R199, R200). -/

namespace Sys2Proof.Machine

variable {p : Params} {mask hi lo : Byte} {pre l m : List Event} {bs : List Bool} {c k n : Nat} {level bit : Bool}

/-! ### The last write of a list -/

/-- The last write of two lists is that of the second, if it has one by then. -/
theorem lastWr_append (l m : List Event) (c : Nat) : lastWr (l ++ m) c = (lastWr m c).or (lastWr l c) := by
  induction m using List.reverseRecOn with
  | nil => rw [List.append_nil, lastWr_nil, Option.none_or]
  | append_singleton m e ih =>
    rw [← List.append_assoc, lastWr_concat, lastWr_concat]
    cases e with
    | wr t v =>
      dsimp only
      split
      · rfl
      · exact ih
    | ie | rd | dir => exact ih

/-- Events after cycle `c` do not decide it. -/
theorem lastWr_of_later (h : ∀ e ∈ m, c < e.cycle) : lastWr m c = none := by
  induction m using List.reverseRecOn with
  | nil => rfl
  | append_singleton m e ih =>
    rw [lastWr_later m (h e (by simp))]
    exact ih fun x hx => h x (by simp [hx])

/-- Only the port writes of a list decide. -/
theorem lastWr_filter (l : List Event) (c : Nat) : lastWr (l.filter Event.isWr) c = lastWr l c := by
  induction l using List.reverseRecOn with
  | nil => rfl
  | append_singleton l e ih =>
    rw [List.filter_append, lastWr_append, lastWr_append, ih]
    cases e <;> rfl

/-! ### The last write within a bit and after bits -/

/-- In phase 1 the port holds `HI`, in phase 2 the bit, in phase 3 `LO` (42_bit_encoder.md R161, R164, R165). -/
theorem lastWr_phase1 (h : c ≤ k) (h1 : k < c + p.t1) : lastWr (bitEvents p hi lo c bit) k = some hi := by
  have h2 : ¬ c + p.t1 + p.t2 ≤ k := by omega
  cases bit <;> simp [bitEvents, lastWr, h, Nat.not_le.mpr h1, h2]

theorem lastWr_phase2 (h1 : c + p.t1 ≤ k) (h2 : k < c + p.t1 + p.t2) :
    lastWr (bitEvents p hi lo c bit) k = some (if bit then hi else lo) := by
  have h : c ≤ k := by omega
  cases bit <;> simp [bitEvents, lastWr, h, h1, Nat.not_le.mpr h2]

theorem lastWr_phase3 (h2 : c + p.t1 + p.t2 ≤ k) : lastWr (bitEvents p hi lo c bit) k = some lo := by
  cases bit <;> simp [bitEvents, lastWr, h2]

theorem bitEvents_from : ∀ e ∈ bitEvents p hi lo c bit, c ≤ e.cycle := by
  cases bit <;> simp [bitEvents, Event.cycle, Nat.add_assoc]

theorem bitsEvents_from : ∀ e ∈ bitsEvents p hi lo c bs, c ≤ e.cycle := by
  induction bs generalizing c with
  | nil => nofun
  | cons b bs ih =>
    exact fun e h => (List.mem_append.mp h).elim (bitEvents_from e) fun h => (Nat.le_add_right _ _).trans (ih e h)

/-- After the last bit the port holds `LO`, as it did before the first. -/
theorem lastWr_after_bits (hpre : lastWr pre k = some lo) (h : c + bs.length * p.period ≤ k) :
    lastWr (pre ++ bitsEvents p hi lo c bs) k = some lo := by
  induction bs generalizing pre c with
  | nil => rwa [bitsEvents, List.append_nil]
  | cons b bs ih =>
    rw [List.length_cons, Nat.succ_mul] at h
    have hbit : lastWr (pre ++ bitEvents p hi lo c b) k = some lo := by
      rw [lastWr_append, lastWr_phase3 (by rw [Params.period] at h; omega), Option.some_or]
    rw [bitsEvents, ← List.append_assoc]
    exact ih hbit (by omega)

/-! ### Levels -/

theorem levels_add (mask : Byte) (driven : Bool) (l : List Event) (c m n : Nat) :
    levels mask driven l c (m + n) = levels mask driven l c m ++ levels mask driven l (c + m) n := by
  induction m generalizing c with
  | zero => rw [Nat.zero_add]; rfl
  | succ m ih => rw [Nat.succ_add, levels, ih, levels, List.cons_append, Nat.succ_add_eq_add_succ c m]

/-- A span in which the line keeps its level. -/
theorem levels_const (h : ∀ k, c ≤ k → k < c + n → lineAt mask true l k = some level) :
    levels mask true l c n = List.replicate n (some level) := by
  induction n generalizing c with
  | zero => rfl
  | succ n ih =>
    rw [levels, h c le_rfl (by omega), ih fun k hk hn => h k (by omega) (by omega), List.replicate_succ]

/-- `HI` and `LO` are the port's levels of the pin `mask`. -/
structure Levels (mask hi lo : Byte) : Prop where
  high : hi &&& mask ≠ 0
  low : lo &&& mask = 0

theorem Levels.lineAt_high (hl : Levels mask hi lo) (h : lastWr l k = some hi) : lineAt mask true l k = some true := by
  rw [lineAt_driven, levelAt, h]
  exact congrArg some (decide_eq_true hl.high)

theorem Levels.lineAt_low (hl : Levels mask hi lo) (h : lastWr l k = some lo) : lineAt mask true l k = some false := by
  rw [lineAt_driven, levelAt, h]
  exact congrArg some (decide_eq_false (not_not_intro hl.low))

/-- The levels of one bit sent from cycle `c` on are those of its symbol (R90), whatever was before and whatever comes
after its period. -/
theorem levels_bit (hl : Levels mask hi lo) (hlater : ∀ e ∈ m, c + p.period ≤ e.cycle) :
    levels mask true (pre ++ (bitEvents p hi lo c bit ++ m)) c p.period = (expand (symbol p bit)).map some := by
  have hperiod : p.period = p.t1 + (p.t2 + p.t3) := Nat.add_assoc ..
  have last {k : Nat} {v : Byte} (hk : k < c + p.period) (h : lastWr (bitEvents p hi lo c bit) k = some v) :
      lastWr (pre ++ (bitEvents p hi lo c bit ++ m)) k = some v := by
    rw [lastWr_append, lastWr_append, lastWr_of_later fun e he => hk.trans_le (hlater e he), h, Option.none_or,
      Option.some_or]
  rw [expand_symbol, hperiod, levels_add, levels_add, List.map_append, List.map_append, List.map_replicate,
    List.map_replicate, List.map_replicate]
  congr 1
  · exact levels_const fun k h1 h2 => hl.lineAt_high (last (by omega) (lastWr_phase1 h1 h2))
  congr 1
  · refine levels_const fun k h1 h2 => ?_
    have hport := last (by omega) (lastWr_phase2 (bit := bit) h1 h2)
    cases bit with
    | false => exact hl.lineAt_low hport
    | true => exact hl.lineAt_high hport
  · exact levels_const fun k h1 h2 => hl.lineAt_low (last (by omega) (lastWr_phase3 h1))

theorem expand_append (l m : List (Bool × Nat)) : expand (l ++ m) = expand l ++ expand m := List.flatMap_append

/-- The levels of bits sent back to back are those of their symbols. -/
theorem levels_bits (hl : Levels mask hi lo) : levels mask true (pre ++ bitsEvents p hi lo c bs) c (bs.length * p.period)
    = (expand (bs.flatMap (symbol p))).map some := by
  induction bs generalizing pre c with
  | nil => rw [List.length_nil, Nat.zero_mul]; rfl
  | cons b bs ih =>
    have hlen : (b :: bs).length * p.period = p.period + bs.length * p.period := by rw [List.length_cons]; ring
    rw [hlen, levels_add, bitsEvents, levels_bit hl bitsEvents_from, ← List.append_assoc, ih, List.flatMap_cons,
      expand_append, List.map_append]

/-! ### Run lengths -/

section RunLengths

variable {α : Type} [DecidableEq α]

/-- A run before a list that begins with another element. -/
theorem runLengths_replicate {x : α} {l : List α} (h : ∀ r ∈ (runLengths l).head?, r.1 ≠ x) (n : Nat) :
    runLengths (List.replicate (n + 1) x ++ l) = (x, n + 1) :: runLengths l := by
  induction n with
  | zero =>
    show runLengths (x :: l) = _
    rw [runLengths]
    cases hr : runLengths l with
    | nil => rfl
    | cons r rest =>
      have hne : x ≠ r.1 := fun he => h r (by rw [hr]; rfl) he.symm
      exact if_neg hne
  | succ n ih =>
    rw [List.replicate_succ, List.cons_append, runLengths, ih]
    exact if_pos rfl

end RunLengths

theorem runLengths_map_some (l : List Bool) : runLengths (l.map some) = onLine (runLengths l) := by
  induction l with
  | nil => rfl
  | cons b l ih =>
    rw [List.map_cons, runLengths, runLengths, ih]
    cases runLengths l with
    | nil => rfl
    | cons r rest =>
      by_cases hb : b = r.1 <;> simp [onLine, hb]

/-- The symbols of bits are their own run lengths: each begins high and ends low, in phases that take cycles. -/
theorem runLengths_expand_symbols (h1 : 0 < p.t1) (h3 : 0 < p.t3) (bs : List Bool) :
    runLengths (expand (bs.flatMap (symbol p))) = bs.flatMap (symbol p) := by
  induction bs with
  | nil => rfl
  | cons b bs ih =>
    obtain ⟨high, hhigh⟩ := Nat.exists_eq_succ_of_ne_zero (n := p.t1 + b.toNat * p.t2) (by omega)
    obtain ⟨low, hlow⟩ := Nat.exists_eq_succ_of_ne_zero (n := (1 - b.toNat) * p.t2 + p.t3) (by omega)
    have hrest : ∀ r ∈ (runLengths (expand (bs.flatMap (symbol p)))).head?, r.1 ≠ false := by
      rw [ih]
      cases bs <;> simp [symbol]
    rw [List.flatMap_cons, symbol, hhigh, hlow, List.cons_append, List.cons_append, List.nil_append, expand_cons,
      expand_cons, runLengths_replicate (by simp [runLengths_replicate hrest]), runLengths_replicate hrest, ih]

/-! ### The writes of a frame -/

theorem bitsEvents_append (p : Params) (hi lo : Byte) (c : Nat) (as bs : List Bool) :
    bitsEvents p hi lo c (as ++ bs) = bitsEvents p hi lo c as ++ bitsEvents p hi lo (c + as.length * p.period) bs := by
  induction as generalizing c with
  | nil => simp [bitsEvents]
  | cons a as ih =>
    have hlen : c + (a :: as).length * p.period = c + p.period + as.length * p.period := by rw [List.length_cons]; ring
    rw [List.cons_append, bitsEvents, bitsEvents, ih, hlen, List.append_assoc]

theorem writes_bitsEvents (c : Nat) (bs : List Bool) :
    (bitsEvents p hi lo c bs).filter Event.isWr = bitsEvents p hi lo c bs := by
  induction bs generalizing c with
  | nil => rfl
  | cons b bs ih =>
    have bit : (bitEvents p hi lo c b).filter Event.isWr = bitEvents p hi lo c b := by cases b <;> rfl
    rw [bitsEvents, List.filter_append, bit, ih]

/-- The port writes of bytes are those of their bits, back to back (R198). -/
theorem writes_bytesEvents (c base : Nat) (bytes : List Byte) :
    (bytesEvents p hi lo c base bytes).filter Event.isWr = bitsEvents p hi lo c (frameBits bytes) := by
  induction bytes generalizing c base with
  | nil => rfl
  | cons v us ih =>
    have hbits : frameBits (v :: us) = byteBits v ++ frameBits us := List.flatMap_cons
    cases us with
    | nil => rw [bytesEvents, writes_bitsEvents, hbits]; exact congrArg _ (List.append_nil _).symm
    | cons u us =>
      have read : ¬ Event.isWr (.rd (c + 8 * p.period - p.adjLast) (base + 1)) := Bool.false_ne_true
      rw [bytesEvents, List.filter_append, writes_bitsEvents, List.filter_cons_of_neg read, ih, hbits, bitsEvents_append]
      rfl

/-- The port writes of a frame: the prologue's, then those of its bits (R196). -/
def frameWrites (p : Params) (hi lo : Byte) (t : Nat) (bytes : List Byte) : List Event :=
  [.wr (t + p.lEnter + p.lSnap) lo] ++ bitsEvents p hi lo (firstRaise p t) (frameBits bytes)

variable {s : State} {t base count : Nat} {bytes : List Byte}

theorem writes_frameEvents (hlen : bytes.length = 3 * count) :
    (frameEvents p hi lo t base count bytes).filter Event.isWr = frameWrites p hi lo t bytes := by
  have body : (bodyEvents p hi lo t base bytes).filter Event.isWr
      = bitsEvents p hi lo (firstRaise p t) (frameBits bytes) := by
    cases bytes with
    | nil => rfl
    | cons v us => exact writes_bytesEvents (firstRaise p t) base (v :: us)
  rw [frameEvents_eq p hlen, List.filter_append, List.filter_append, body]
  exact List.append_nil _

theorem lastWr_frameEvents (hlen : bytes.length = 3 * count) (k : Nat) :
    lastWr (frameEvents p hi lo t base count bytes) k = lastWr (frameWrites p hi lo t bytes) k := by
  rw [← lastWr_filter, writes_frameEvents hlen]

theorem frameBits_length (bytes : List Byte) : (frameBits bytes).length = 8 * bytes.length := by
  induction bytes with
  | nil => rfl
  | cons v us ih =>
    have hbits : frameBits (v :: us) = byteBits v ++ frameBits us := List.flatMap_cons
    have hbyte : (byteBits v).length = 8 := rfl
    rw [hbits, List.length_append, ih, hbyte, List.length_cons]
    omega

/-- The levels of two event lists with the same port writes are the same. -/
theorem levels_congr (h : ∀ k, lastWr l k = lastWr m k) (c n : Nat) :
    levels mask true l c n = levels mask true m c n := by
  induction n generalizing c with
  | zero => rfl
  | succ n ih => rw [levels, levels, ih, lineAt_driven, lineAt_driven, levelAt, levelAt, h]

/-- Before the prologue's write a frame writes nothing. -/
theorem lastWr_before_prologue (hk : k < t + p.lEnter + p.lSnap) : lastWr (frameWrites p hi lo t bytes) k = none := by
  refine lastWr_of_later fun e he => ?_
  obtain he | he := List.mem_append.mp he
  · obtain rfl := List.mem_singleton.mp he
    exact hk
  · have := bitsEvents_from e he
    rw [firstRaise] at this
    omega

/-- From the prologue's write to the first raise the port holds `LO` (R199). -/
theorem lastWr_before_raise (h : t + p.lEnter + p.lSnap ≤ k) (hk : k < firstRaise p t) :
    lastWr (frameWrites p hi lo t bytes) k = some lo := by
  have hlater : ∀ e ∈ bitsEvents p hi lo (firstRaise p t) (frameBits bytes), k < e.cycle :=
    fun e he => hk.trans_le (bitsEvents_from e he)
  rw [frameWrites, lastWr_append, lastWr_of_later hlater, Option.none_or]
  simp [lastWr, h]

/-- From the end of the last bit on the port holds `LO` (R199). -/
theorem lastWr_after_frame (hlen : bytes.length = 3 * count) (h : firstRaise p t + 24 * count * p.period ≤ k) :
    lastWr (frameWrites p hi lo t bytes) k = some lo := by
  have hbits : (frameBits bytes).length = 24 * count := by rw [frameBits_length]; omega
  refine lastWr_after_bits ?_ (hbits ▸ h)
  have hprologue : t + p.lEnter + p.lSnap ≤ k := by rw [firstRaise] at h; omega
  simp [lastWr, hprologue]

/-! ### The line of a frame -/

/-- The levels `SNAP` derives from any port value are the pin's. -/
theorem levels_of_snap (g : Cfg) (v : Byte) : Levels g.mask (v ||| g.mask) (v &&& ~~~g.mask) where
  high := by rw [set_and_mask]; exact g.mask_ne_zero
  low := cleared_and_mask v g.mask

/-- The events that the frame accepted in `s` makes. -/
def State.eventsGained (base count : Nat) (bytes : List Byte) (s : State) : List Event :=
  frameEvents s.cfg.toParams (s.port ||| s.cfg.mask) (s.port &&& ~~~s.cfg.mask) s.cyc base count bytes

/-- Over its bits, the pulse trace of a frame is the symbols of its bytes (R92, R199). -/
theorem FramePremises.pulseTrace_eq (h : FramePremises s base count bytes) :
    pulseTrace s.cfg.mask s.dir (s.eventsGained base count bytes) (firstRaise s.cfg.toParams s.cyc)
      (24 * count * s.cfg.period) = onLine (frameSymbols s.cfg.toParams bytes) := by
  obtain ⟨h1, -, h3⟩ := s.cfg.thresholds
  have hlen := h.length
  have hbits : 24 * count = (frameBits bytes).length := by rw [frameBits_length]; omega
  rw [pulseTrace, h.ready.output, hbits, State.eventsGained, levels_congr (lastWr_frameEvents hlen), frameWrites,
    levels_bits (levels_of_snap s.cfg s.port), runLengths_map_some, runLengths_expand_symbols (by omega) (by omega),
    frameSymbols]

/-- Settles O53: the trace by `FramePremises.pulseTrace_eq`; around the bits the last write decides, and before the first
the port's value at acceptance. -/
theorem pulseTraceIsTheSymbolsOfTheBits : Obligations.PulseTraceIsTheSymbolsOfTheBits := by
  unfold Obligations.PulseTraceIsTheSymbolsOfTheBits
  intro s base count bytes h
  obtain ⟨_, _, _, hrun, -⟩ := runsTo_frame h
  have hdir := h.ready.output
  have low {k : Nat} (hk : lastWr (frameWrites s.cfg.toParams (s.port ||| s.cfg.mask) (s.port &&& ~~~s.cfg.mask) s.cyc
      bytes) k = some (s.port &&& ~~~s.cfg.mask)) :
      lineAt s.cfg.mask s.dir (s.eventsGained base count bytes) k = some false := by
    rw [hdir]
    exact (levels_of_snap s.cfg s.port).lineAt_low ((lastWr_frameEvents h.length k).trans hk)
  refine ⟨_, _, s.eventsGained base count bytes, hrun, rfl, rfl, hdir, rfl, h.pulseTrace_eq,
    fun c h1 h2 => low (lastWr_before_raise h1 h2), fun c h1 => low (lastWr_after_frame h.length h1),
    fun c h1 h2 => ?before⟩
  case before =>
    have hnone : lastWr (s.eventsGained base count bytes) c = none :=
      (lastWr_frameEvents h.length c).trans (lastWr_before_prologue h2)
    rw [portLineAt, hdir, dirAt_driven, if_pos rfl, portAt, hnone, Option.getD_none]

theorem frameSymbols_congr {p q : Params} (h1 : p.t1 = q.t1) (h2 : p.t2 = q.t2) (h3 : p.t3 = q.t3) (bytes : List Byte) :
    frameSymbols p bytes = frameSymbols q bytes := by
  have hsymbol : symbol p = symbol q := funext fun b => by rw [symbol, symbol, h1, h2, h3]
  rw [frameSymbols, frameSymbols, hsymbol]

/-- Settles O57: both pulse traces are the symbols of the same bytes, which `T1`, `T2` and `T3` alone shape. -/
theorem pulseTraceDependsOnTimingAndBytesOnly : Obligations.PulseTraceDependsOnTimingAndBytesOnly := by
  unfold Obligations.PulseTraceDependsOnTimingAndBytesOnly
  intro s₁ s₂ base₁ base₂ count bytes hp₁ hp₂ h1 h2 h3
  obtain ⟨_, _, _, hrun₁, -⟩ := runsTo_frame hp₁
  obtain ⟨_, _, _, hrun₂, -⟩ := runsTo_frame hp₂
  refine ⟨_, _, s₁.eventsGained base₁ count bytes, _, _, s₂.eventsGained base₂ count bytes, hrun₁, hrun₂, rfl, rfl, rfl,
    rfl, rfl, rfl, ?traces⟩
  case traces => rw [hp₁.pulseTrace_eq, hp₂.pulseTrace_eq, frameSymbols_congr h1 h2 h3]

end Sys2Proof.Machine
end

section
/-! PROOFS. What every step of a frame keeps: the other pins, `IE = 0`, `BUSY = 1` (20_memory.md R69,
43_frame_transmitter.md R201). -/

namespace Sys2Proof.Machine

variable {s t u : State} {k n base count : Nat} {bytes : List Byte}

/-! ### A run that no other agent disturbs -/

/-- The move that lands leaves the list; nothing else touches it. -/
theorem step_agents (h : step s = .next t) :
    s.dueMove = none ∧ t.agents = s.agents ∨ t.agents.length < s.agents.length := by
  obtain ⟨m, rest, hd, hland⟩ | ⟨i, hd, -, hexec⟩ | ⟨hd, -, rfl⟩ | ⟨hd, -, rfl⟩ := step_next h
  · have hrest : t.agents = rest := by
      obtain ⟨v, -, -, rfl⟩ | ⟨b, -, -, rfl⟩ | ⟨a, v, -, -, -, rfl⟩ | ⟨a, -, -, -, rfl⟩ | ⟨b, v, -, rfl⟩ :=
        State.land_next hland <;> rfl
    obtain ⟨hm, -⟩ := State.dueMove_some hd
    exact .inr (by rw [hm, hrest, List.length_cons]; exact Nat.lt_succ_self _)
  · obtain ⟨-, -, -, -, -, -, -, -, -, -, hagents, -⟩ := eachRegisterHasOnlyItsWriters i s t hexec
    exact .inl ⟨hd, hagents⟩
  · exact .inl ⟨hd, rfl⟩
  · exact .inl ⟨hd, rfl⟩

theorem run_succ_next (h : run (k + 1) s = .next t) : ∃ u, step s = .next u ∧ run k u = .next t := by
  rw [run] at h
  split at h
  · exact ⟨_, ‹_›, h⟩
  · cases h
  · cases h

theorem run_agents (h : run k s = .next t) : t.agents.length ≤ s.agents.length := by
  induction k generalizing s with
  | zero => cases h; exact le_rfl
  | succ k ih =>
    obtain ⟨u, hstep, hrun⟩ := run_succ_next h
    obtain ⟨-, hu⟩ | hu := step_agents hstep
    · exact (ih hrun).trans_eq (congrArg _ hu)
    · exact (ih hrun).trans hu.le

/-! ### The atomic region of a frame -/

/-- The pins of `t` other than that of `s` are those of `s`. -/
def KeepsOthers (s t : State) : Prop := t.port &&& ~~~s.cfg.mask = s.port &&& ~~~s.cfg.mask

/-- In `u` the frame accepted in `s` is past its `AENTER`. -/
structure InAtomic (s u : State) : Prop where
  cfg : u.cfg = s.cfg
  cmds : u.cmds = s.cmds.tail
  region : u.seq.inAtomic = true
  cached : u.PinCached
  claim : ClaimAt u.seq u
  others : KeepsOthers s u

/-- In `t` the frame accepted in `s` has ended. -/
structure FrameEnded (s t : State) : Prop where
  idle : t.seq = .idle
  cmds : t.cmds = s.cmds.tail
  on : t.ie = true
  others : KeepsOthers s t

theorem ne_idle_of_inAtomic {q : Seq} (h : q.inAtomic = true) : q ≠ .idle := by
  rintro rfl
  cases h

theorem InAtomic.busy (h : InAtomic s u) : u.seq ≠ .idle := ne_idle_of_inAtomic h.region

/-- After `SNAP`, what an instruction writes to the port has the other pins of the port (R69). -/
theorem exec_keeps_others {i : Instr} (hs : Snapped s) (h : exec i s = .next t) : KeepsOthers s t := by
  unfold KeepsOthers
  obtain ⟨hport, -⟩ | ⟨v, hwriter, hport, -⟩ := exec_port_events h
  · rw [hport]
  · rw [hport, hs.others]
    obtain ⟨-, rfl⟩ | ⟨-, rfl⟩ := hwriter
    · exact hs.hi_others
    · rfl

/-- A step in the atomic region keeps the other pins: at `F1` nothing is written, and from then on `exec_keeps_others`. -/
theorem step_keeps_others (hd : s.dueMove = none) (hregion : s.seq.inAtomic = true) (hp : ClaimAt s.seq s)
    (h : step s = .next t) : KeepsOthers s t := by
  by_cases hq : s.seq = .f1
  · rw [step_uop hd hq (by decide) rfl] at h
    obtain ⟨-, rfl⟩ := execSnap_next h
    rfl
  · have hs : Snapped s := hp.snapped (by simp [Seq.snapped, hregion, hq])
    obtain ⟨v, -, hexec⟩ | ⟨-, rfl⟩ := step_quiet_busy_next hd (ne_idle_of_inAtomic hregion) h
    · exact exec_keeps_others hs hexec
    · rfl

/-- The atomic region is left at `F4` only (10_state.md R31). -/
theorem step_stays_inAtomic (hd : s.dueMove = none) (hregion : s.seq.inAtomic = true) (hq : s.seq ≠ .f4)
    (h : step s = .next t) : t.seq.inAtomic = true := by
  have load (ht : (s.rem = 0 → t.seq = .f4 ∧ t.j = s.j) ∧ (s.rem ≠ 0 → t.seq = .b1 ∧ t.j = 0)) :
      t.seq.inAtomic = true := by
    by_cases h0 : s.rem = 0
    · rw [(ht.1 h0).1]; rfl
    · rw [(ht.2 h0).1]; rfl
  have table {q : Seq} (hs : s.seq = q) (hidle : q ≠ .idle) (hf3 : q ≠ .f3) (hb8 : q ≠ .b8) : t.seq = nextSeq q := by
    subst hs
    exact (step_position_of_table hd hidle hf3 hb8 h).1
  cases hs : s.seq with
  | idle | i0 | i1 | a0 | f0 => rw [hs] at hregion; cases hregion
  | f4 => exact absurd hs hq
  | f3 => exact load (step_position_f3 hd hs h)
  | b8 =>
    by_cases hj : s.j = 7
    · exact load (step_position_b8_last hd hs hj h)
    · rw [(step_position_b8 hd hs hj h).1]; rfl
  | f1 | f2 | b1 | b2 | b3 | b4 | b5 | b6 | b7 => rw [table hs (by decide) (by decide) (by decide)]; rfl

theorem step_cfg (hd : s.dueMove = none) (hb : s.seq ≠ .idle) (h : step s = .next t) : t.cfg = s.cfg := by
  obtain ⟨u, -, hexec⟩ | ⟨-, rfl⟩ := step_quiet_busy_next hd hb h
  · exact (exec_mem_cfg hexec).2
  · rfl

/-- A step of the atomic region stays in it or ends the frame. -/
theorem InAtomic.step (h : InAtomic s u) (hd : u.dueMove = none) (hstep : step u = .next t) :
    InAtomic s t ∨ FrameEnded s t := by
  obtain ⟨hcached, hclaim⟩ := step_keeps_claim h.cached h.claim hstep
  have hcmds := (busyEngineKeepsThePresentedCommands u t h.busy hstep).trans h.cmds
  have hothers : KeepsOthers s t := by
    have hkept := step_keeps_others hd h.region h.claim hstep
    rw [KeepsOthers, h.cfg] at hkept
    exact hkept.trans h.others
  by_cases hq : u.seq = .f4
  · rw [step_uop hd hq (by decide) rfl] at hstep
    cases hstep
    exact .inr ⟨rfl, hcmds, rfl, hothers⟩
  · exact .inl ⟨(step_cfg hd h.busy hstep).trans h.cfg, hcmds, step_stays_inAtomic hd h.region hq hstep, hcached, hclaim,
      hothers⟩

/-- A run from the atomic region to `IDLE` in which no other agent moves ends the frame on its way, and until then stays
in the region. -/
theorem InAtomic.run_to_end (h : InAtomic s u) (hrun : run n u = .next t) (ht : t.seq = .idle)
    (ha : t.agents = u.agents) :
    ∃ k v, 0 < k ∧ run k u = .next v ∧ FrameEnded s v ∧ ∀ m < k, ∃ w, run m u = .next w ∧ InAtomic s w := by
  induction n generalizing u with
  | zero => cases hrun; exact absurd ht h.busy
  | succ n ih =>
    obtain ⟨u', hstep, hrest⟩ := run_succ_next hrun
    have hlen := run_agents hrest
    rw [ha] at hlen
    obtain ⟨hd, hagents⟩ | hlt := step_agents hstep
    · obtain h' | hend := h.step hd hstep
      · obtain ⟨k, v, -, hv, hend, hall⟩ := ih h' hrest (ha.trans hagents.symm)
        refine ⟨k + 1, v, Nat.succ_pos k, (run_succ k hstep).trans hv, hend, fun m hm => ?_⟩
        cases m with
        | zero => exact ⟨u, rfl, h⟩
        | succ m =>
          obtain ⟨w, hw, hin⟩ := hall m (by omega)
          exact ⟨w, (run_succ m hstep).trans hw, hin⟩
      · refine ⟨1, u', Nat.one_pos, run_succ 0 hstep, hend, fun m hm => ?_⟩
        obtain rfl : m = 0 := by omega
        exact ⟨u, rfl, h⟩
    · exact absurd hlen (Nat.not_le.mpr hlt)

/-! ### From acceptance to the atomic region -/

/-- The state right after the acceptance of `SHOWRGB base, count` in `s`. -/
def State.atEnter (base count : Nat) (s : State) : State :=
  { s with ptr := base, rem := 3 * count, seq := .f0, cmds := s.cmds.tail }

/-- The state right after the `AENTER` of the frame accepted in `s`. -/
def State.atSnap (base count : Nat) (s : State) : State :=
  { s.atEnter base count with
    ie := false, ev := s.ev ++ [.ie s.cyc false], cyc := s.cyc + s.cfg.lEnter, seq := .f1 }

theorem FramePremises.run_accept (h : FramePremises s base count bytes) : run 1 s = .next (s.atEnter base count) := by
  obtain ⟨hbase, hcount⟩ := h.presented.fits
  obtain ⟨-, -, -, -, -, -, -, -, -, henter, -⟩ := s.cfg.latencies
  exact (RunsTo.command h.idle h.presented (h.quiet.within rfl (by simp only [latency, frameCycles]; omega))
    (exec_showrgb h.idle h.ready.inited hbase hcount)).run

theorem FramePremises.run_enter (h : FramePremises s base count bytes) : run 2 s = .next (s.atSnap base count) := by
  obtain ⟨-, -, -, -, -, -, -, -, -, henter, -⟩ := s.cfg.latencies
  have enter := RunsTo.uop (s := s.atEnter base count) (v := .aenter) (q := .f0) rfl (by decide) rfl
    (h.quiet.within rfl (by simp only [MicroOp.instr, latency, State.atEnter, frameCycles]; omega)) (exec_aenter_at rfl)
  exact (run_add h.run_accept).trans enter.run

theorem FramePremises.inAtomic (h : FramePremises s base count bytes) : InAtomic s (s.atSnap base count) where
  cfg := rfl
  cmds := rfl
  region := rfl
  cached := fun _ => ⟨h.ready.mask, h.ready.port, h.ready.output⟩
  claim := ⟨h.ready.inited, rfl⟩
  others := rfl

/-- Settles O55: the two steps to the atomic region, and from there `InAtomic.run_to_end`. -/
theorem frameKeepsOtherPinsAndInterruptsOff : Obligations.FrameKeepsOtherPinsAndInterruptsOff := by
  unfold Obligations.FrameKeepsOtherPinsAndInterruptsOff
  intro s base count bytes h
  obtain ⟨_, _, _, hrun, -⟩ := runsTo_frame h
  have hsteps : 4 + (1 + 64 * (3 * count)) + 1 = 2 + (4 + 64 * (3 * count)) := by omega
  rw [hsteps, run_add h.run_enter] at hrun
  obtain ⟨k, t, hpos, ht, hend, hall⟩ := h.inAtomic.run_to_end hrun rfl rfl
  refine ⟨2 + k, t, by omega, (run_add h.run_enter).trans ht, hend.idle, hend.cmds, hend.on, fun n hn => ?_⟩
  match n with
  | 0 => exact ⟨s, rfl, rfl, fun hlt => absurd hlt (Nat.lt_irrefl 0), fun hlt => absurd hlt (by decide)⟩
  | 1 => exact ⟨_, h.run_accept, rfl, fun _ _ => rfl, fun hlt => absurd hlt (Nat.lt_irrefl 1)⟩
  | m + 2 =>
    have hfrom : run (m + 2) s = run m (s.atSnap base count) := Nat.add_comm 2 m ▸ run_add h.run_enter
    rw [hfrom]
    obtain hm | rfl : m < k ∨ m = k := by omega
    · obtain ⟨w, hw, hin⟩ := hall m hm
      exact ⟨w, hw, hin.others, fun _ _ => (State.busy_iff w).mpr hin.busy, fun _ _ => hin.claim.off hin.region⟩
    · exact ⟨t, ht, hend.others, fun _ hlt => absurd hlt (by omega), fun _ hlt => absurd hlt (by omega)⟩

end Sys2Proof.Machine
end
